-- ==== Sys2Proof/Word.lean ====
section
/-! DEFINITION. The plain value types of the core: levels, bytes, slot indices (spec/00_scope.md R5). -/

namespace Sys2Proof

/-- A level is one bit: `false` is low (0), `true` is high (1) (R5). -/
abbrev Level := Bool

/-- The low level, 0 (R5). -/
abbrev low : Level := false

/-- The high level, 1 (R5). -/
abbrev high : Level := true

/-- A byte, the only unit of access (R44). -/
abbrev Byte := BitVec 8

/-- The index of a slot of a ring buffer, 0..15 (R43). -/
abbrev Slot := BitVec 4

/-- A byte sequence, first byte first (R5). -/
abbrev ByteSeq := List Byte

end Sys2Proof
end

