-- ==== Sys2Proof/Config.lean ====
section
/-! DEFINITION. The parameters of the core that are constants (spec/00_scope.md R4). `QUERY_TABLE` is
left OPEN by the spec (D14): it stands in the state, so that every statement holds for every table. -/

namespace Sys2Proof.Config

open Sys2Proof

/-- `QUANTA_PER_BIT`: ticks per bit period (R4), in the width of a wait counter. -/
def quantaPerBit : BitVec 3 := 4

/-- `BIT_RATE_HZ` (R4): timing only, no rule depends on it (R201). -/
def bitRateHz : Nat := 2400

/-- `TICK_HZ` (R4): `QUANTA_PER_BIT` times `BIT_RATE_HZ`; timing only. -/
def tickHz : Nat := quantaPerBit.toNat * bitRateHz

/-- `DATA_BITS` (R4). -/
def dataBits : Nat := 8

/-- `FRAME_BITS` (R4): start, data, parity, stop. -/
def frameBits : Nat := 1 + dataBits + 1 + 1

/-- `IDLE_LEVEL` (R4). -/
def idleLevel : Level := high

/-- `START_RECHECK_QUANTA` (R4). -/
def startRecheckQuanta : BitVec 3 := 1

/-- `RB_CAPACITY` (R4): slots of a ring buffer. -/
def rbCapacity : Nat := 16

/-- `RB_USABLE` (R4, D4): the most bytes a ring buffer holds at once. -/
def rbUsable : BitVec 4 := 15

/-- `TIMEOUT_QUANTA` (R4): the command timeout. -/
def timeoutQuanta : BitVec 16 := 480

/-- `SEQ_LEN_MIN` (R4). -/
def seqLenMin : Nat := 1

/-- `SEQ_LEN_MAX` (R4). -/
def seqLenMax : Nat := 5

/-- `RX_LAST_RESET` (R4, D12). -/
def rxLastReset : Level := low

/-- The operating modes of the device (R29, R183); their 2-bit coding is not in the source (N10). -/
inductive OperatingMode where
  | idleDisabled
  | flagMode
  | alternateProtocol
  | ushio
  deriving DecidableEq, Repr

/-- The one bit of the mode that the core sees: "only the Ushio value activates this core" (R29, R153). -/
def OperatingMode.enable : OperatingMode → Bool
  | .idleDisabled => false
  | .flagMode => false
  | .alternateProtocol => false
  | .ushio => true

end Sys2Proof.Config
end

