-- ==== Sys2Proof/Syntax.lean ====
section
/-! DEFINITION. The operations of the core, one constructor per row of spec/opcode_table.json, and the
names their operands use. -/

namespace Sys2Proof

/-- The five phases of either state machine, in the source's order (R12, R19, R67). -/
inductive Phase where
  | idle
  | start
  | data
  | parity
  | stop
  deriving DecidableEq, Repr

/-- The two ring buffers (R23, R24). -/
inductive Buf where
  | rxb
  | txb
  deriving DecidableEq, Repr

/-- An entry of the query table: a query and the reply it earns (R25, R64). -/
structure QueryTableEntry where
  query : ByteSeq
  reply : ByteSeq
  deriving DecidableEq, Repr

/-- The operations (R70) and the two data formats (R60, R65). -/
inductive Instr where
  /-- RB.COUNT(B), R80 -/
  | rbCount (b : Buf)
  /-- RB.FREE(B), R81 -/
  | rbFree (b : Buf)
  /-- RB.PEEK(B, j), R82 -/
  | rbPeek (b : Buf) (j : Slot)
  /-- RB.COMMIT(B), R83 -/
  | rbCommit (b : Buf)
  /-- RB.APPEND(B, seq), R84 -/
  | rbAppend (b : Buf) (seq : ByteSeq)
  /-- RB.ADV(B), R85 -/
  | rbAdv (b : Buf)
  /-- RB.CLEAR(B), R86 -/
  | rbClear (b : Buf)
  /-- RX.WAIT, R92 -/
  | rxWait
  /-- RX.IDLE(s), R93; `s` is the level of `rx_in` -/
  | rxIdle
  /-- RX.START(s), R94; `s` is the level of `rx_in` -/
  | rxStart
  /-- RX.DATA(s), R95; `s` is the level of `rx_in` -/
  | rxData
  /-- RX.PARITY(s), R96; `s` is the level of `rx_in` -/
  | rxParity
  /-- RX.STOP(s), R97; `s` is the level of `rx_in` -/
  | rxStop
  /-- RX.LATCH(s), R91 -/
  | rxLatch (x : Level)
  /-- TX.DRIVE, R111 -/
  | txDrive
  /-- TX.WAIT, R112 -/
  | txWait
  /-- TX.IDLE, R113 -/
  | txIdle
  /-- TX.START, R114 -/
  | txStart
  /-- TX.DATA, R115 -/
  | txData
  /-- TX.PARITY, R116 -/
  | txParity
  /-- TX.STOP, R117 -/
  | txStop
  /-- CM.GATE, R130 -/
  | cmGate
  /-- CM.SCAN, R131 -/
  | cmScan
  /-- CM.CMP(i), R132 -/
  | cmCmp (i : Nat)
  /-- CM.REPLY(i), R133 -/
  | cmReply (i : Nat)
  /-- CM.CLEAR(matched, could_match), R134 -/
  | cmClear (matched couldMatch : Bool)
  /-- TO.ARM, R135 -/
  | toArm
  /-- TO.TICK, R136 -/
  | toTick
  /-- TICK(s), R150 -/
  | tick (x : Level)
  /-- RESET, R190 -/
  | reset
  /-- FRAME, the wire frame of a data byte with a parity level `p`, R60, R72 -/
  | frame (b : Byte) (p : Level)
  /-- ENTRY.KNOWN, the one table entry the source gives, R65 -/
  | entryKnown
  deriving DecidableEq, Repr

end Sys2Proof
end

