-- ==== Sys2Proof/Machine/State.lean ====
section
/-! DEFINITION. The state of the machine as plain data (spec/10_state.md), its value after reset
(spec/70_reset_and_hazards.md R190), and the reasons a step can stop. -/

namespace Sys2Proof.Machine

open Sys2Proof

/-- The storage of a ring buffer: (slot, byte) pairs in the canonical form `Memory.wf`. -/
abbrev Memory := List Host.Cell

/-- What a slot that is not listed reads as. The spec leaves the storage after reset unspecified and lets a
model "take any values, for instance all zero, without changing any trace" (R190). DESIGN CHOICE, unsafe
(log 4). -/
def unwrittenByte : Byte := 0

/-- The slots a list names are strictly rising and at least `k`, below 16, and no listed byte is what an
unlisted slot reads as. -/
def memoryWfFrom (k : Nat) : Memory → Bool
  | [] => true
  | (a, v) :: rest =>
    decide (k ≤ a) && decide (a < Config.rbCapacity) && decide (v ≠ unwrittenByte) && memoryWfFrom (a + 1) rest

/-- The canonical form of a memory. -/
def Memory.wf (m : Memory) : Bool := memoryWfFrom 0 m

/-- A ring buffer: storage, write index, read index (R23, R24). -/
structure RingBuf where
  mem : Memory
  wr : Slot
  rd : Slot
  deriving DecidableEq, Repr

/-- Why CM.CLEAR cleared the receive buffer (R71, R134). -/
inductive ClearReason where
  | matched
  | noMatch
  | timeout
  deriving DecidableEq, Repr

/-- The events a tick can emit (R71). -/
inductive Event where
  | glitch
  | parity
  | stop
  | timeout
  | rxOverflow
  | txOverflow (i : Nat)
  | rxByte (b : Byte)
  | txByte (b : Byte)
  | matched (i : Nat)
  | clear (reason : ClearReason)
  deriving DecidableEq, Repr

/-- What an operation invoked by name returned: R80, R81 a number; R82 a byte; R83, R84 accepted or
rejected; R131 `matched` and `could_match`; R132 a boolean. -/
inductive Ret where
  | nothing
  | number (n : Slot)
  | byte (b : Byte)
  | accepted (yes : Bool)
  | scan (matched couldMatch : Bool)
  | equal (yes : Bool)
  deriving DecidableEq, Repr

/-- What the environment does next (R156): a tick at which `rx_in` has a level, a frame sent on `rx_in`
(R72), or the `reset` port asserted between two ticks. -/
inductive Stimulus where
  | level (x : Level)
  | frame (b : Byte) (p : Level)
  | reset
  deriving DecidableEq, Repr

/-- The state: the fields of R10, then the ports and the parameter the step reads (R25, R27), then the
model's own fields (INVENTORY.md, State). -/
structure State where
  /-- `rx_last` (R11) -/
  rxLast : Level
  /-- `rx_phase` (R12) -/
  rxPhase : Phase
  /-- `rx_wait` (R13) -/
  rxWait : BitVec 3
  /-- `rx_bit` (R14) -/
  rxBit : BitVec 8
  /-- `rx_parity` (R15) -/
  rxParity : Level
  /-- `rx_timeout` (R16) -/
  rxTimeout : BitVec 16
  /-- `tx_level` (R17) -/
  txLevel : Level
  /-- `tx_pin` (R18) -/
  txPin : Level
  /-- `tx_phase` (R19) -/
  txPhase : Phase
  /-- `tx_wait` (R20) -/
  txWait : BitVec 3
  /-- `tx_bit` (R21) -/
  txBit : BitVec 8
  /-- `tx_parity` (R22) -/
  txParity : Level
  /-- `RXB` (R23) -/
  rxb : RingBuf
  /-- `TXB` (R24) -/
  txb : RingBuf
  /-- the port `rx_in` (R27): the level sampled at the tick in progress, or at the last one -/
  rxIn : Level
  /-- the port `enable` (R27), read by RESET only -/
  enable : Bool
  /-- what the last RESET read on `enable` (R153) -/
  active : Bool
  /-- `QUERY_TABLE` (R25), fixed for a whole run (R52) -/
  table : List QueryTableEntry
  /-- the model's own: what the environment does in the steps to come (R156) -/
  inputs : List Stimulus
  /-- the model's own: the event set of the current tick, in sub-step order (R150, R179) -/
  events : List Event
  /-- the model's own: what the last operation invoked by name returned -/
  ret : Ret
  deriving DecidableEq, Repr

/-- The reasons a step can stop with a fault. Nothing in the core is fatal (R155): no TICK and no RESET
faults. -/
inductive Fault where
  /-- raised by CM.CMP and CM.REPLY invoked with an index that no entry of the table has: the table's
  entries are 0..TableLen()-1 (R47). Safe: the machine stops where the spec gives nothing to read. -/
  | noSuchEntry (i : Nat)
  deriving DecidableEq, Repr

/-- The reasons a step is refused. -/
inductive Refusal where
  /-- no meaning yet for the instruction of this mnemonic; raised by no arm of `exec`. Safe. -/
  | notModelled (mnemonic : String)
  /-- raised by RB.PEEK with an offset that is not below the count: "a model should refuse such a call
  rather than return a stale byte" (R82). Safe. -/
  | peekBeyondContent
  /-- raised by RB.ADV on an empty buffer, which the spec does not define as an operation (R85, U6). Safe. -/
  | advOnEmpty
  /-- raised by CM.CMP on an entry whose query is longer than the content, outside the operand's range
  (R132, U6). Safe. -/
  | cmpBeyondContent
  deriving DecidableEq, Repr

/-- What a step answers. -/
abbrev Answer := Host.Outcome State Fault Refusal

/-- A ring buffer after reset: both indices 0, storage unspecified (R190), so nothing listed. -/
def RingBuf.reset : RingBuf := { mem := [], wr := 0, rd := 0 }

/-- The machine right after reset (R190), with `enable = 1`, the idle level on `rx_in`, no table loaded and
nothing queued (log 3, log 6). -/
def State.reset : State where
  rxLast := Config.rxLastReset
  rxPhase := .idle
  rxWait := 0
  rxBit := 0x01
  rxParity := low
  rxTimeout := 0
  txLevel := high
  txPin := high
  txPhase := .idle
  txWait := 0
  txBit := 0x01
  txParity := low
  rxb := RingBuf.reset
  txb := RingBuf.reset
  rxIn := Config.idleLevel
  enable := true
  active := true
  table := []
  inputs := []
  events := []
  ret := .nothing

end Sys2Proof.Machine
end

