-- ==== Sys2Proof/Machine/Ops.lean ====
section
/-! DEFINITION. The named operations over the storage of a buffer, over the state's two buffers, over the
event set and the wait counters (spec/00_scope.md R6, spec/20_memory.md). -/

namespace Sys2Proof.Machine

open Sys2Proof

/-- `MemRead(B, a, 1)`: the byte in slot `a` (R6); reading has no side effect (R44). -/
def Memory.read : Memory → Nat → Byte
  | [], _ => unwrittenByte
  | (k, v) :: rest, a => if k = a then v else Memory.read rest a

/-- A cell in front of a list, unless its byte is what an unlisted slot reads as. -/
def Memory.put (a : Nat) (v : Byte) (rest : Memory) : Memory :=
  if v = unwrittenByte then rest else (a, v) :: rest

/-- `MemWrite(B, a, 1, v)`: slot `a` takes the byte `v` (R6), in canonical form. -/
def Memory.write : Memory → Nat → Byte → Memory
  | [], a, v => Memory.put a v []
  | (k, w) :: rest, a, v =>
    if a < k then Memory.put a v ((k, w) :: rest)
    else if a = k then Memory.put a v rest
    else (k, w) :: Memory.write rest a v

/-- The byte in a slot of a ring buffer. -/
def RingBuf.slot (b : RingBuf) (a : Slot) : Byte := b.mem.read a.toNat

/-- The ring buffer with a byte written to a slot. -/
def RingBuf.setSlot (b : RingBuf) (a : Slot) (v : Byte) : RingBuf :=
  { b with mem := b.mem.write a.toNat v }

/-- The ring buffer an operand names (R23, R24). -/
def State.buf (s : State) : Buf → RingBuf
  | .rxb => s.rxb
  | .txb => s.txb

/-- The state with the ring buffer an operand names replaced. -/
def State.setBuf (s : State) (b : Buf) (v : RingBuf) : State :=
  match b with
  | .rxb => { s with rxb := v }
  | .txb => { s with txb := v }

/-- `emit EV_X(info)`: adds an event to the event set of the current tick. It stands in for raising an
exception: it changes no other state, saves nothing, redirects nothing and does not stop the step (R6,
R170, R180), so there is nothing to return from (R181). -/
def State.emit (e : Event) (s : State) : State :=
  { s with events := s.events ++ [e] }

/-- The number of an event (R71, D13). -/
def Event.code : Event → Nat
  | .glitch => 1
  | .parity => 2
  | .stop => 3
  | .timeout => 4
  | .rxOverflow => 5
  | .txOverflow _ => 6
  | .rxByte _ => 16
  | .txByte _ => 17
  | .matched _ => 18
  | .clear _ => 19

/-- The events that are anomalies of the error taxonomy, codes 1 to 6 (R71, R170); the others are
informational (R177). -/
def Event.isAnomaly (e : Event) : Bool := decide (e.code ≤ 6)

/-- A wait counter's decrement at dispatch: down by one while it is not 0 (R87 (d), R90, R110). -/
def countDown {n : Nat} (c : BitVec n) : BitVec n := if c = 0 then 0 else c - 1

/-- `TableQuery(i)` and `TableReply(i)`: entry `i` of the table, 0-based, in table order (R6). -/
def State.entry (s : State) (i : Nat) : Option QueryTableEntry := s.table[i]?

/-- The level on the output line: `tx_pin`, or none when the core is not active and so does not drive the
line (R18, R153, D17). -/
def State.txLine (s : State) : Option Level := if s.active then some s.txPin else none

end Sys2Proof.Machine
end

