-- ==== Sys2Proof/Machine/Operands.lean ====
section
/-! DEFINITION. Operand forms: the bit-position cursor, the assembly of a byte, offsets into a buffer, and
the levels the stimulus notation expands to (spec/30_encoding.md R63, R72; spec/40_ring_buffer.md R87). -/

namespace Sys2Proof.Machine

open Sys2Proof

/-- The sample `s` of the tick in progress: the level of `rx_in` (R7, R150). -/
def State.sample (s : State) : Level := s.rxIn

/-- The cursor of the first data bit (R14). -/
def cursorFirst : BitVec 8 := 0x01

/-- The cursor after the eighth bit: the terminator (R14, R87 (b)). -/
def cursorDone : BitVec 8 := 0x00

/-- The cursor advances by doubling in 8 bits (R14, R87 (b)). -/
def cursorNext (c : BitVec 8) : BitVec 8 := c <<< 1

/-- A high sample sets the cursor's bit in the byte under construction (R63, R87 (e)). -/
def setDataBit (v : Byte) (c : BitVec 8) : Byte := v ||| c

/-- The level of the data bit the cursor points at (R63, R115). -/
def dataBit (b : Byte) (c : BitVec 8) : Level := decide (b &&& c ≠ 0)

/-- An offset from an index, modulo 16 (R43, R82). -/
def slotAt (base j : Slot) : Slot := base + j

/-- The index after an index: 15 is followed by 0 (R43, R87 (a)). -/
def slotNext (i : Slot) : Slot := i + 1

/-- `H(k)` (R72). -/
def stimH (k : Nat) : List Level := List.replicate k high

/-- `L(k)` (R72). -/
def stimL (k : Nat) : List Level := List.replicate k low

/-- `BIT(x)` (R72): a bit period is four ticks (R61). -/
def stimBit (x : Level) : List Level := List.replicate Config.quantaPerBit.toNat x

/-- The ten bit periods of a frame before the stop bit: start, data least significant bit first, parity
(R60, R41). -/
def framePeriods (b : Byte) (p : Level) : List Level :=
  [low, b.getLsbD 0, b.getLsbD 1, b.getLsbD 2, b.getLsbD 3, b.getLsbD 4, b.getLsbD 5, b.getLsbD 6,
    b.getLsbD 7, p]

/-- `FRAME(b, p, stop, stopq)` (R72): each period four ticks, the stop period `stopq` ticks of level
`stop`. -/
def stimFrame (b : Byte) (p stop : Level) (stopq : Nat) : List Level :=
  (framePeriods b p).flatMap stimBit ++ List.replicate stopq stop

end Sys2Proof.Machine
end

