-- ==== Sys2Proof/Machine/Formats.lean ====
section
/-! DEFINITION. The two data formats of the operation table: the wire frame as a stimulus (spec/30_encoding.md
R60, R72) and the one known table entry (R65). -/

namespace Sys2Proof.Machine

open Sys2Proof

/-- The stimuli a list of levels stands for: one tick each (R72). -/
def levelStimuli (xs : List Level) : List Stimulus := xs.map Stimulus.level

/-- `FRAME(b, p)` as stimuli: 44 levels, the stop period four ticks of high (R60, R61, R72). -/
def frameStimuli (b : Byte) (p : Level) : List Stimulus :=
  levelStimuli (stimFrame b p high Config.quantaPerBit.toNat)

/-- The one table entry whose bytes the source gives (R65). -/
def knownEntry : QueryTableEntry := { query := [0x51, 0x0D], reply := [0x51, 0x32, 0x0D] }

/-- FRAME: the peer sends a frame. A pseudo-instruction (R72): it "expands to plain levels", which the
environment then presents one per tick, before whatever it had queued. -/
def execFrame (b : Byte) (p : Level) (s : State) : Answer :=
  .next { s with inputs := frameStimuli b p ++ s.inputs }

/-- ENTRY.KNOWN: the entry takes its place in the query table, after the entries already there (R64, R65). -/
def execEntryKnown (s : State) : Answer :=
  .next { s with table := s.table ++ [knownEntry] }

end Sys2Proof.Machine
end

