-- ==== Sys2Proof/Machine/RingBuffer.lean ====
section
/-! DEFINITION. The ring buffer operations (spec/40_ring_buffer.md R80 to R86): each as a function of a ring
buffer, then its meaning as an instruction. -/

namespace Sys2Proof.Machine

open Sys2Proof

/-- RB.COUNT(B): the number of unread bytes (R80). -/
def rbCount (b : RingBuf) : Slot := b.wr - b.rd

/-- RB.FREE(B): the number of bytes the buffer can still take (R81). -/
def rbFree (b : RingBuf) : Slot := Config.rbUsable - rbCount b

/-- RB.PEEK(B, j): the `j`-th unread byte (R82). -/
def rbPeek (b : RingBuf) (j : Slot) : Byte := b.slot (slotAt b.rd j)

/-- RB.COMMIT(B): publish the byte in the slot at the write index; the boolean is "accepted" (R83). -/
def rbCommit (b : RingBuf) : RingBuf × Bool :=
  if 1 ≤ (rbFree b).toNat then ({ b with wr := slotNext b.wr }, true) else (b, false)

/-- Write a sequence at the write index, byte by byte, advancing it (R84). -/
def rbWriteAll (b : RingBuf) : ByteSeq → RingBuf
  | [] => b
  | v :: rest => rbWriteAll { b.setSlot b.wr v with wr := slotNext b.wr } rest

/-- RB.APPEND(B, seq): the whole sequence or nothing; the boolean is "accepted" (R84). -/
def rbAppend (b : RingBuf) (seq : ByteSeq) : RingBuf × Bool :=
  if seq.length ≤ (rbFree b).toNat then (rbWriteAll b seq, true) else (b, false)

/-- RB.ADV(B): consume the byte at the read index (R85). -/
def rbAdv (b : RingBuf) : RingBuf := { b with rd := slotNext b.rd }

/-- RB.CLEAR(B): both indices to 0; the storage is not erased (R86, D19). -/
def rbClear (b : RingBuf) : RingBuf := { b with rd := 0, wr := 0 }

/-- RB.COUNT (R80). -/
def execRbCount (b : Buf) (s : State) : Answer :=
  .next { s with ret := .number (rbCount (s.buf b)) }

/-- RB.FREE (R81). -/
def execRbFree (b : Buf) (s : State) : Answer :=
  .next { s with ret := .number (rbFree (s.buf b)) }

/-- RB.PEEK (R82): refused when the offset is not below the count. -/
def execRbPeek (b : Buf) (j : Slot) (s : State) : Answer :=
  if j.toNat < (rbCount (s.buf b)).toNat then .next { s with ret := .byte (rbPeek (s.buf b) j) }
  else .refused .peekBeyondContent

/-- RB.COMMIT (R83). -/
def execRbCommit (b : Buf) (s : State) : Answer :=
  let r := rbCommit (s.buf b)
  .next { s.setBuf b r.1 with ret := .accepted r.2 }

/-- RB.APPEND (R84). -/
def execRbAppend (b : Buf) (seq : ByteSeq) (s : State) : Answer :=
  let r := rbAppend (s.buf b) seq
  .next { s.setBuf b r.1 with ret := .accepted r.2 }

/-- RB.ADV (R85): refused on an empty buffer, where the spec defines no operation (U6). -/
def execRbAdv (b : Buf) (s : State) : Answer :=
  if rbCount (s.buf b) = 0 then .refused .advOnEmpty else .next (s.setBuf b (rbAdv (s.buf b)))

/-- RB.CLEAR (R86). -/
def execRbClear (b : Buf) (s : State) : Answer :=
  .next (s.setBuf b (rbClear (s.buf b)))

end Sys2Proof.Machine
end

