-- ==== Sys2Proof/Machine/Timeout.lean ====
section
/-! DEFINITION. The command timeout (spec/43_matcher.md R135 to R137). -/

namespace Sys2Proof.Machine

open Sys2Proof

/-- TO.ARM: start the timeout if it is not running (R135). -/
def toArm (s : State) : State :=
  if s.rxTimeout = 0 then { s with rxTimeout := Config.timeoutQuanta } else s

/-- TO.TICK: count the timeout down while it is not 0 (R136). -/
def toTick (s : State) : State := { s with rxTimeout := countDown s.rxTimeout }

/-- "Has expired": the test CM.CLEAR makes (R137). -/
def timeoutExpired (s : State) : Bool := decide (s.rxTimeout = 0)

/-- TO.ARM (R135). -/
def execToArm (s : State) : Answer := .next (toArm s)

/-- TO.TICK (R136). -/
def execToTick (s : State) : Answer := .next (toTick s)

end Sys2Proof.Machine
end

