-- ==== Sys2Proof/Machine/Matcher.lean ====
section
/-! DEFINITION. The command matcher (spec/43_matcher.md R130 to R134). -/

namespace Sys2Proof.Machine

open Sys2Proof

/-- Compare the rest of a query with the unread bytes from offset `j` on (R132). -/
def cmpFrom (b : RingBuf) (j : Slot) : ByteSeq → Bool
  | [] => true
  | q :: rest => if rbPeek b j = q then cmpFrom b (j + 1) rest else false

/-- CM.CMP: the query is at the head of the buffer, byte for byte (R132). -/
def cmCmp (b : RingBuf) (q : ByteSeq) : Bool := cmpFrom b 0 q

/-- CM.REPLY(i): append the reply of entry `i` to TXB, whole or not at all; a dropped reply is reported
(R133, R176). -/
def cmReply (i : Nat) (reply : ByteSeq) (s : State) : State :=
  let r := rbAppend s.txb reply
  if r.2 then { s with txb := r.1 } else State.emit (.txOverflow i) s

/-- The two results of CM.SCAN (R131), with the state it leaves. -/
structure ScanResult where
  state : State
  matched : Bool
  couldMatch : Bool
  deriving DecidableEq, Repr

/-- CM.SCAN's loop over the entries from index `i` on, in table order (R131): an entry longer than the
content could still match; the first whose whole query is at the head matches, earns its reply and ends
the scan. -/
def scanFrom (i : Nat) (couldMatch : Bool) (s : State) : List QueryTableEntry → ScanResult
  | [] => { state := s, matched := false, couldMatch := couldMatch }
  | e :: rest =>
    if (rbCount s.rxb).toNat < e.query.length then scanFrom (i + 1) true s rest
    else if cmCmp s.rxb e.query then
      { state := cmReply i e.reply (State.emit (.matched i) s), matched := true, couldMatch := couldMatch }
    else scanFrom (i + 1) couldMatch s rest

/-- CM.SCAN: search the table for the first entry whose whole query is at the head of RXB (R131). -/
def cmScan (s : State) : ScanResult := scanFrom 0 false s s.table

/-- CM.CLEAR's decision (R134): the first of MATCH, NOMATCH, TIMEOUT that holds, or keep the buffer. -/
def clearReason (matched couldMatch expired : Bool) : Option ClearReason :=
  if matched then some .matched
  else if couldMatch then (if expired then some .timeout else none)
  else some .noMatch

/-- CM.CLEAR's effect for a reason (R134, R174): the events, RXB emptied, the timeout stopped. -/
def clearFor (r : ClearReason) (s : State) : State :=
  let t := if r = .timeout then State.emit .timeout s else s
  let u := State.emit (.clear r) t
  { u with rxb := rbClear u.rxb, rxTimeout := 0 }

/-- CM.CLEAR(matched, could_match): decide whether the receive buffer is cleared, after the scan (R134). -/
def cmClear (matched couldMatch : Bool) (s : State) : State :=
  match clearReason matched couldMatch (timeoutExpired s) with
  | none => s
  | some r => clearFor r s

/-- CM.GATE: the matcher runs when the receiver is IDLE and RXB holds a byte (R130). -/
def cmGate (s : State) : State :=
  if s.rxPhase = .idle ∧ s.rxb.rd ≠ s.rxb.wr then
    let r := cmScan s
    cmClear r.matched r.couldMatch r.state
  else s

/-- CM.GATE (R130). -/
def execCmGate (s : State) : Answer := .next (cmGate s)

/-- CM.SCAN (R131). -/
def execCmScan (s : State) : Answer :=
  let r := cmScan s
  .next { r.state with ret := .scan r.matched r.couldMatch }

/-- CM.CMP (R132): a fault on an index that no entry has, a refusal on a query longer than the content. -/
def execCmCmp (i : Nat) (s : State) : Answer :=
  match s.entry i with
  | none => .fault (.noSuchEntry i)
  | some e =>
    if e.query.length ≤ (rbCount s.rxb).toNat then .next { s with ret := .equal (cmCmp s.rxb e.query) }
    else .refused .cmpBeyondContent

/-- CM.REPLY (R133): a fault on an index that no entry has. -/
def execCmReply (i : Nat) (s : State) : Answer :=
  match s.entry i with
  | none => .fault (.noSuchEntry i)
  | some e => .next (cmReply i e.reply s)

/-- CM.CLEAR (R134). -/
def execCmClear (matched couldMatch : Bool) (s : State) : Answer := .next (cmClear matched couldMatch s)

end Sys2Proof.Machine
end

