-- ==== Sys2Proof/WellFormed.lean ====
section
/-! DEFINITION. Which operands, table entries and tables are well formed (spec/30_encoding.md R64, R66;
spec/40_ring_buffer.md R84). -/

namespace Sys2Proof

/-- A query, a reply or an appended sequence has 1 to 5 bytes (R64, R66, R84). -/
def seqLenOk (q : ByteSeq) : Bool :=
  decide (Config.seqLenMin ≤ q.length) && decide (q.length ≤ Config.seqLenMax)

/-- An instruction's operands are within the ranges its rule gives: only RB.APPEND has an operand whose
type is wider than its rule (R84). -/
def Instr.wf : Instr → Bool
  | .rbAppend _ seq => seqLenOk seq
  | .rbCount _ => true
  | .rbFree _ => true
  | .rbPeek _ _ => true
  | .rbCommit _ => true
  | .rbAdv _ => true
  | .rbClear _ => true
  | .rxWait => true
  | .rxIdle => true
  | .rxStart => true
  | .rxData => true
  | .rxParity => true
  | .rxStop => true
  | .rxLatch _ => true
  | .txDrive => true
  | .txWait => true
  | .txIdle => true
  | .txStart => true
  | .txData => true
  | .txParity => true
  | .txStop => true
  | .cmGate => true
  | .cmScan => true
  | .cmCmp _ => true
  | .cmReply _ => true
  | .cmClear _ _ => true
  | .toArm => true
  | .toTick => true
  | .tick _ => true
  | .reset => true
  | .frame _ _ => true
  | .entryKnown => true

/-- A table entry is well formed (R64). -/
def QueryTableEntry.wf (e : QueryTableEntry) : Bool :=
  seqLenOk e.query && seqLenOk e.reply

/-- A table is well formed when every entry is; the empty table is admitted (R64, D14). -/
def tableWf (t : List QueryTableEntry) : Bool :=
  t.all QueryTableEntry.wf

end Sys2Proof
end

