-- ==== Sys2Proof/Decode.lean ====
section
/-! DEFINITION. The encodings (spec/30_encoding.md R60, R67, R68, R69): phase codes, the dispatch words of
the two machines, the wire frame; the decoder, total on any bytes and rejecting by name, and after it the
encoder. -/

namespace Sys2Proof

/-- Who reads a word: the receiver or the transmitter reads a dispatch word (R68), the wire carries a
frame (R60). -/
inductive Space where
  | receiver
  | transmitter
  | wire
  deriving DecidableEq, Repr

/-- Why the decoder rejects bytes. -/
inductive DecodeError where
  /-- a dispatch word is one byte; these are not one byte -/
  | dispatchLength
  /-- a dispatch word has four bits (R68); a higher bit is set -/
  | dispatchTooWide
  /-- a frame of 11 levels is two bytes; these are not two bytes -/
  | frameLength
  /-- a frame has 11 bit periods (R60); a bit above period 10 is set -/
  | frameTooWide
  /-- bit period 0 of a FRAME is low (R60); it is high -/
  | startHigh
  /-- bit period 10 of a FRAME is high (R60); it is low -/
  | stopLow
  deriving DecidableEq, Repr

/-- The three-bit code of a phase (R67). -/
def Phase.code : Phase → BitVec 3
  | .idle => 0
  | .start => 1
  | .data => 2
  | .parity => 3
  | .stop => 4

/-- The phase a three-bit code names (R67); the reserved codes 5, 6, 7 are treated as IDLE (R69 (a), D15). -/
def Phase.ofCode (c : BitVec 3) : Phase :=
  if c = 1 then .start
  else if c = 2 then .data
  else if c = 3 then .parity
  else if c = 4 then .stop
  else .idle

/-- The four-bit dispatch word `z << 3 | phase` (R68). -/
def dispatchWord (z : Bool) (p : Phase) : BitVec 4 :=
  BitVec.ofBool z ++ p.code

/-- The receiver's phase action (R68, R90). -/
def rxAction : Phase → Instr
  | .idle => .rxIdle
  | .start => .rxStart
  | .data => .rxData
  | .parity => .rxParity
  | .stop => .rxStop

/-- The transmitter's phase action (R68, R110). -/
def txAction : Phase → Instr
  | .idle => .txIdle
  | .start => .txStart
  | .data => .txData
  | .parity => .txParity
  | .stop => .txStop

/-- The operation the receiver's dispatch word selects (R68): `0 xxx` is RX.WAIT whatever `xxx` is. -/
def decodeRxWord (w : BitVec 4) : Instr :=
  if w.getLsbD 3 then rxAction (Phase.ofCode (w.setWidth 3)) else .rxWait

/-- The operation the transmitter's dispatch word selects (R68). -/
def decodeTxWord (w : BitVec 4) : Instr :=
  if w.getLsbD 3 then txAction (Phase.ofCode (w.setWidth 3)) else .txWait

/-- A dispatch word alone in a byte: bits 3..0 of one byte, the bits above them 0. -/
def decodeDispatch (select : BitVec 4 → Instr) : List Byte → Except DecodeError Instr
  | [v] => if v.toNat < 16 then .ok (select (v.setWidth 4)) else .error .dispatchTooWide
  | _ => .error .dispatchLength

/-- The frame in a 16-bit word, bit `i` the level of bit period `i` (R60, opcode_table.json): start 0, the
data byte in periods 1..8 least significant bit first (R41), parity in period 9, stop 1. -/
def decodeFrameWord (w : BitVec 16) : Except DecodeError Instr :=
  if 2048 ≤ w.toNat then .error .frameTooWide
  else if w.getLsbD 0 then .error .startHigh
  else if w.getLsbD 10 then .ok (.frame (w.extractLsb' 1 8) (w.getLsbD 9))
  else .error .stopLow

/-- A frame in two bytes, the levels sent first in the first byte. -/
def decodeFrame : List Byte → Except DecodeError Instr
  | [v0, v1] => decodeFrameWord (v1 ++ v0)
  | _ => .error .frameLength

/-- The decoder, total on any bytes. -/
def decode : Space → List Byte → Except DecodeError Instr
  | .receiver, bs => decodeDispatch decodeRxWord bs
  | .transmitter, bs => decodeDispatch decodeTxWord bs
  | .wire, bs => decodeFrame bs

/-- A dispatch word in its byte. -/
def dispatchByte (z : Bool) (p : Phase) : Byte :=
  (dispatchWord z p).setWidth 8

/-- The frame of a byte and a parity level as a 16-bit word (R60). -/
def frameWord (b : Byte) (p : Level) : BitVec 16 :=
  (0#5 ++ BitVec.ofBool high ++ BitVec.ofBool p ++ b ++ BitVec.ofBool low).setWidth 16

/-- The encoder: the space an instruction is read from and its bytes; `none` for the operations that are
"invoked by name" and have no encoding (R68, opcode_table.json). The bits `xxx` of a wait word are written
as 0. -/
def encode : Instr → Option (Space × List Byte)
  | .rxWait => some (.receiver, [dispatchByte false .idle])
  | .rxIdle => some (.receiver, [dispatchByte true .idle])
  | .rxStart => some (.receiver, [dispatchByte true .start])
  | .rxData => some (.receiver, [dispatchByte true .data])
  | .rxParity => some (.receiver, [dispatchByte true .parity])
  | .rxStop => some (.receiver, [dispatchByte true .stop])
  | .txWait => some (.transmitter, [dispatchByte false .idle])
  | .txIdle => some (.transmitter, [dispatchByte true .idle])
  | .txStart => some (.transmitter, [dispatchByte true .start])
  | .txData => some (.transmitter, [dispatchByte true .data])
  | .txParity => some (.transmitter, [dispatchByte true .parity])
  | .txStop => some (.transmitter, [dispatchByte true .stop])
  | .frame b p =>
    some (.wire, [(frameWord b p).extractLsb' 0 8, (frameWord b p).extractLsb' 8 8])
  | .rbCount _ => none
  | .rbFree _ => none
  | .rbPeek _ _ => none
  | .rbCommit _ => none
  | .rbAppend _ _ => none
  | .rbAdv _ => none
  | .rbClear _ => none
  | .rxLatch _ => none
  | .txDrive => none
  | .cmGate => none
  | .cmScan => none
  | .cmCmp _ => none
  | .cmReply _ => none
  | .cmClear _ _ => none
  | .toArm => none
  | .toTick => none
  | .tick _ => none
  | .reset => none
  | .entryKnown => none

/-- The bytes of an instruction word of `nbits` bits numbered as spec/opcode_table.json numbers them, and
the space they are read in: a word of one byte is a dispatch word, a longer one a frame. -/
def tableWordBytes (nbits w : Nat) : Space × List Byte :=
  if nbits ≤ 8 then (.receiver, [BitVec.ofNat 8 w])
  else (.wire, [BitVec.ofNat 8 w, BitVec.ofNat 8 (w / 256)])

/-- The instruction the decoder reads from a word of the opcode table. The dispatch words of the receiver
and of the transmitter are the same bits (R68); a bare word is answered for the receiver (log 9). -/
def decodeTableWord (nbits w : Nat) : Option Instr :=
  let (sp, bs) := tableWordBytes nbits w
  if w < 65536 then (decode sp bs).toOption else none

end Sys2Proof
end

