-- ==== Sys2Proof/Machine/Flags.lean ====
section
/-! DEFINITION. The condition bits: the two parity accumulators (spec/10_state.md R28, spec/30_encoding.md
R62). There is no other flag. -/

namespace Sys2Proof.Machine

open Sys2Proof

/-- The accumulator at the start of a frame (R94, R114). -/
def parityClear : Level := low

/-- A data bit that is high toggles the accumulator; a low one leaves it (R62, R87 (c)). -/
def parityStep (acc x : Level) : Level := xor acc x

/-- `P(b)`: set iff the byte has an odd number of 1-bits (R62). -/
def evenParity (b : Byte) : Level :=
  xor (b.getLsbD 0) (xor (b.getLsbD 1) (xor (b.getLsbD 2) (xor (b.getLsbD 3)
    (xor (b.getLsbD 4) (xor (b.getLsbD 5) (xor (b.getLsbD 6) (b.getLsbD 7)))))))

end Sys2Proof.Machine
end

