-- ==== Sys2Proof/Machine/Receiver.lean ====
section
/-! DEFINITION. The receiver (spec/41_receiver.md R90 to R97). In every operation the sample `s` of the rules
is `State.sample`, the level of `rx_in` at this tick. -/

namespace Sys2Proof.Machine

open Sys2Proof

/-- RX.WAIT: nothing; the decrement is the dispatcher's (R92). -/
def rxWait (s : State) : State := s

/-- RX.IDLE(s): look for a falling edge (R93). -/
def rxIdle (s : State) : State :=
  if s.rxLast = high ∧ s.sample = low then
    { s with rxPhase := .start, rxWait := Config.startRecheckQuanta }
  else s

/-- The commit of a start bit (R94): parity, cursor and slot cleared, the timeout armed. -/
def rxStartCommit (s : State) : State :=
  { toArm { s with
      rxPhase := .data
      rxParity := parityClear
      rxBit := cursorFirst
      rxb := s.rxb.setSlot s.rxb.wr 0x00 } with
    rxWait := Config.quantaPerBit }

/-- The dismissal of a glitch (R94, R171). -/
def rxStartGlitch (s : State) : State :=
  State.emit .glitch { s with rxPhase := .idle, rxWait := 0 }

/-- RX.START(s): confirm the start bit, or dismiss a glitch (R94). -/
def rxStart (s : State) : State :=
  if s.sample = low then rxStartCommit s else rxStartGlitch s

/-- The first half of RX.DATA (R95): a high sample sets the cursor's bit in the slot at the write index and
toggles the parity; a low one writes nothing. -/
def rxTakeBit (s : State) : State :=
  if s.sample = high then
    { s with
      rxb := s.rxb.setSlot s.rxb.wr (setDataBit (s.rxb.slot s.rxb.wr) s.rxBit)
      rxParity := parityStep s.rxParity high }
  else s

/-- The end of a byte in RX.DATA (R95): commit it and go to PARITY, with EV_RX_BYTE or EV_RX_OVERFLOW. -/
def rxFinishByte (s : State) : State :=
  let b := s.rxb.slot s.rxb.wr
  let r := rbCommit s.rxb
  { State.emit (if r.2 then .rxByte b else .rxOverflow) { s with rxb := r.1 } with rxPhase := .parity }

/-- RX.DATA(s): take one data bit (R95). -/
def rxData (s : State) : State :=
  let t := rxTakeBit s
  let u := { t with rxBit := cursorNext t.rxBit }
  let v := if u.rxBit = cursorDone then rxFinishByte u else u
  { v with rxWait := Config.quantaPerBit }

/-- RX.PARITY(s): compare the sample with the accumulated parity (R96). -/
def rxParity (s : State) : State :=
  let t := if s.sample = s.rxParity then s else State.emit .parity s
  { t with rxPhase := .stop, rxWait := Config.quantaPerBit }

/-- RX.STOP(s): check the stop bit and go idle (R97). -/
def rxStop (s : State) : State :=
  let t := if s.sample = high then s else State.emit .stop s
  { t with rxPhase := .idle, rxWait := 0 }

/-- RX.LATCH(s): remember the sample for the next tick's edge test (R91). -/
def rxLatch (x : Level) (s : State) : State := { s with rxLast := x }

/-- The receiver's dispatch decrement (R90). -/
def rxCountDown (s : State) : State := { s with rxWait := countDown s.rxWait }

/-- The receiver's dispatch word, once the decrement is done (R68). -/
def rxDispatchWord (s : State) : BitVec 4 := dispatchWord (decide (s.rxWait = 0)) s.rxPhase

/-- The operation the receiver's phase and wait select (R90). -/
def rxSelected (s : State) : State :=
  if s.rxWait = 0 then
    match s.rxPhase with
    | .idle => rxIdle s
    | .start => rxStart s
    | .data => rxData s
    | .parity => rxParity s
    | .stop => rxStop s
  else rxWait s

/-- Receiver dispatch, once per tick (R90). -/
def rxDispatch (s : State) : State := rxSelected (rxCountDown s)

/-- RX.WAIT (R92). -/
def execRxWait (s : State) : Answer := .next (rxWait s)

/-- RX.IDLE (R93). -/
def execRxIdle (s : State) : Answer := .next (rxIdle s)

/-- RX.START (R94). -/
def execRxStart (s : State) : Answer := .next (rxStart s)

/-- RX.DATA (R95). -/
def execRxData (s : State) : Answer := .next (rxData s)

/-- RX.PARITY (R96). -/
def execRxParity (s : State) : Answer := .next (rxParity s)

/-- RX.STOP (R97). -/
def execRxStop (s : State) : Answer := .next (rxStop s)

/-- RX.LATCH (R91). -/
def execRxLatch (x : Level) (s : State) : Answer := .next (rxLatch x s)

end Sys2Proof.Machine
end

