-- ==== Sys2Proof/Machine/Transmitter.lean ====
section
/-! DEFINITION. The transmitter (spec/42_transmitter.md R110 to R117). -/

namespace Sys2Proof.Machine

open Sys2Proof

/-- TX.DRIVE: put the decided level on the line (R111). -/
def txDrive (s : State) : State := { s with txPin := s.txLevel }

/-- TX.WAIT: nothing; the decrement is the dispatcher's (R112). -/
def txWait (s : State) : State := s

/-- TX.IDLE: start a byte if there is one, otherwise reclaim the buffer (R113). -/
def txIdle (s : State) : State :=
  if s.txb.rd = s.txb.wr then { s with txb := rbClear s.txb }
  else { s with txPhase := .start, txWait := 1 }

/-- TX.START: the start bit (R114). -/
def txStart (s : State) : State :=
  { s with
    txLevel := low
    txBit := cursorFirst
    txParity := parityClear
    txPhase := .data
    txWait := Config.quantaPerBit }

/-- The end of a byte in TX.DATA (R115): advance the read index, report the byte, go to PARITY. -/
def txFinishByte (b : Byte) (s : State) : State :=
  { State.emit (.txByte b) { s with txb := rbAdv s.txb } with txPhase := .parity }

/-- TX.DATA: one data bit (R115). -/
def txData (s : State) : State :=
  let b := s.txb.slot s.txb.rd
  let x := dataBit b s.txBit
  let t := { s with
    txLevel := x
    txParity := parityStep s.txParity x
    txBit := cursorNext s.txBit }
  let u := if t.txBit = cursorDone then txFinishByte b t else t
  { u with txWait := Config.quantaPerBit }

/-- TX.PARITY: the parity bit (R116). -/
def txParity (s : State) : State :=
  { s with txLevel := s.txParity, txPhase := .stop, txWait := Config.quantaPerBit }

/-- TX.STOP: the stop bit (R117). -/
def txStop (s : State) : State :=
  { s with txLevel := high, txPhase := .idle, txWait := Config.quantaPerBit }

/-- The transmitter's dispatch decrement (R110). -/
def txCountDown (s : State) : State := { s with txWait := countDown s.txWait }

/-- The transmitter's dispatch word, once the decrement is done (R68). -/
def txDispatchWord (s : State) : BitVec 4 := dispatchWord (decide (s.txWait = 0)) s.txPhase

/-- The operation the transmitter's phase and wait select (R110). -/
def txSelected (s : State) : State :=
  if s.txWait = 0 then
    match s.txPhase with
    | .idle => txIdle s
    | .start => txStart s
    | .data => txData s
    | .parity => txParity s
    | .stop => txStop s
  else txWait s

/-- Transmitter dispatch, once per tick (R110). -/
def txDispatch (s : State) : State := txSelected (txCountDown s)

/-- TX.DRIVE (R111). -/
def execTxDrive (s : State) : Answer := .next (txDrive s)

/-- TX.WAIT (R112). -/
def execTxWait (s : State) : Answer := .next (txWait s)

/-- TX.IDLE (R113). -/
def execTxIdle (s : State) : Answer := .next (txIdle s)

/-- TX.START (R114). -/
def execTxStart (s : State) : Answer := .next (txStart s)

/-- TX.DATA (R115). -/
def execTxData (s : State) : Answer := .next (txData s)

/-- TX.PARITY (R116). -/
def execTxParity (s : State) : Answer := .next (txParity s)

/-- TX.STOP (R117). -/
def execTxStop (s : State) : Answer := .next (txStop s)

end Sys2Proof.Machine
end

