-- ==== Sys2Proof/Machine/Loop.lean ====
section
/-! DEFINITION. The protocol loop: TICK and its sub-step order (spec/44_protocol_loop.md R150, R151), RESET
(spec/70_reset_and_hazards.md R190), and which operation the environment causes next (R156). -/

namespace Sys2Proof.Machine

open Sys2Proof

/-- Sub-step 1 of TICK: the level of `rx_in` is the sample, and a new event set begins (R150). -/
def beginTick (x : Level) (s : State) : State := { s with rxIn := x, events := [] }

/-- TICK(s) of an active core: the seven sub-steps in their order (R150, R151). -/
def tickSubSteps (x : Level) (s : State) : State :=
  let s1 := beginTick x s
  let s2 := txDrive s1
  let s3 := toTick s2
  let s4 := rxDispatch s3
  let s5 := rxLatch x s4
  let s6 := txDispatch s5
  cmGate s6

/-- TICK: an active core takes its step; a core that is not active takes none, and only the line moves
(R150, R153). -/
def execTick (x : Level) (s : State) : Answer :=
  if s.active then .next (tickSubSteps x s) else .next (beginTick x s)

/-- RESET: every register to its reset value, `enable` read (R27, R153); the storage of the buffers is not
written (R190). The ports, the table and the environment's queue are not the core's to reset. -/
def resetCore (s : State) : State :=
  { s with
    rxLast := Config.rxLastReset
    rxPhase := .idle
    rxWait := 0
    rxBit := cursorFirst
    rxParity := low
    rxTimeout := 0
    txLevel := high
    txPin := high
    txPhase := .idle
    txWait := 0
    txBit := cursorFirst
    txParity := low
    rxb := { s.rxb with wr := 0, rd := 0 }
    txb := { s.txb with wr := 0, rd := 0 }
    active := s.enable
    events := []
    ret := .nothing }

/-- RESET (R190). -/
def execReset (s : State) : Answer := .next (resetCore s)

/-- The operation the environment causes next, and the state with its stimulus taken from the queue: a tick
with the level it presents, a frame, or a reset. With nothing queued the line holds its level and the next
tick comes (log 2). -/
def fetch (s : State) : Instr × State :=
  match s.inputs with
  | [] => (.tick s.rxIn, s)
  | .level x :: rest => (.tick x, { s with inputs := rest })
  | .frame b p :: rest => (.frame b p, { s with inputs := rest })
  | .reset :: rest => (.reset, { s with inputs := rest })

/-- The state whose very next step is a tick of an active core in which the receiver's dispatch word has
`z` and `phase` as given: the wait is 0 for `z = 1` and is not 0 after its decrement for `z = 0` (R68). -/
def placeDispatchWord (w : BitVec 4) (s : State) : State :=
  { s with
    rxPhase := Phase.ofCode (w.setWidth 3)
    rxWait := if w.getLsbD 3 then 0 else 2
    active := true
    inputs := .level s.rxIn :: s.inputs }

/-- The state whose very next step is what a decoded instruction word asks for: a frame is put at the head
of the queue, a dispatch word is placed in the receiver. -/
def placeTableWord (nbits w : Nat) (s : State) : State :=
  match decodeTableWord nbits w with
  | some (.frame b p) => { s with inputs := .frame b p :: s.inputs }
  | some _ => placeDispatchWord (BitVec.ofNat 4 w) s
  | none => s

end Sys2Proof.Machine
end

