-- ==== Sys2Proof/Machine/Dispatch.lean ====
section
/-! DEFINITION. `exec`: one arm per constructor of `Instr`, each one direct call of its meaning. -/

namespace Sys2Proof.Machine

open Sys2Proof

def exec (i : Instr) (s : State) : Host.Outcome State Fault Refusal :=
  match i with
  | .rbCount b => Sys2Proof.Machine.execRbCount b s
  | .rbFree b => Sys2Proof.Machine.execRbFree b s
  | .rbPeek b j => Sys2Proof.Machine.execRbPeek b j s
  | .rbCommit b => Sys2Proof.Machine.execRbCommit b s
  | .rbAppend b seq => Sys2Proof.Machine.execRbAppend b seq s
  | .rbAdv b => Sys2Proof.Machine.execRbAdv b s
  | .rbClear b => Sys2Proof.Machine.execRbClear b s
  | .rxWait => Sys2Proof.Machine.execRxWait s
  | .rxIdle => Sys2Proof.Machine.execRxIdle s
  | .rxStart => Sys2Proof.Machine.execRxStart s
  | .rxData => Sys2Proof.Machine.execRxData s
  | .rxParity => Sys2Proof.Machine.execRxParity s
  | .rxStop => Sys2Proof.Machine.execRxStop s
  | .rxLatch x => Sys2Proof.Machine.execRxLatch x s
  | .txDrive => Sys2Proof.Machine.execTxDrive s
  | .txWait => Sys2Proof.Machine.execTxWait s
  | .txIdle => Sys2Proof.Machine.execTxIdle s
  | .txStart => Sys2Proof.Machine.execTxStart s
  | .txData => Sys2Proof.Machine.execTxData s
  | .txParity => Sys2Proof.Machine.execTxParity s
  | .txStop => Sys2Proof.Machine.execTxStop s
  | .cmGate => Sys2Proof.Machine.execCmGate s
  | .cmScan => Sys2Proof.Machine.execCmScan s
  | .cmCmp k => Sys2Proof.Machine.execCmCmp k s
  | .cmReply k => Sys2Proof.Machine.execCmReply k s
  | .cmClear matched couldMatch => Sys2Proof.Machine.execCmClear matched couldMatch s
  | .toArm => Sys2Proof.Machine.execToArm s
  | .toTick => Sys2Proof.Machine.execToTick s
  | .tick x => Sys2Proof.Machine.execTick x s
  | .reset => Sys2Proof.Machine.execReset s
  | .frame b p => Sys2Proof.Machine.execFrame b p s
  | .entryKnown => Sys2Proof.Machine.execEntryKnown s

end Sys2Proof.Machine
end

