-- ==== Sys2Proof/Machine/Step.lean ====
section
/-! DEFINITION. The step: fetch the operation the environment causes next, and run it. -/

namespace Sys2Proof.Machine

open Sys2Proof

/-- One step of the machine. Where the environment presents levels, one step is one TICK (R150, R152). -/
def step (s : State) : Host.Outcome State Fault Refusal :=
  exec (fetch s).1 (fetch s).2

/-- The state with an instruction word of the operation table stored where the next step fetches it. -/
def State.withFetchWord (s : State) (nbits w : Nat) : State := placeTableWord nbits w s

end Sys2Proof.Machine
end

