-- ==== Sys2Proof/Machine/TickSource.lean ====
section
/-! DEFINITION. The tick source and the busy-wait around the core: the one shared flag (spec/10_state.md R30,
spec/20_memory.md R51, spec/60_exceptions.md R178, spec/70_reset_and_hazards.md R193). The spec keeps the flag
out of the core's state, so it stands beside it here (log 18, log 26,
log 27). -/

namespace Sys2Proof.Machine

open Sys2Proof

/-- The core together with `tick_flag` (R30). -/
structure FlaggedCore where
  tickFlag : Bool
  core : State
  deriving DecidableEq, Repr

/-- The tick source's handler: it sets the flag, "one write, no other shared mutation" (R51, R178). A flag
that is already set absorbs the tick (R193, D18). -/
def tickArrives (l : FlaggedCore) : FlaggedCore := { l with tickFlag := true }

/-- The next thing the environment does is a tick: a level is at the head of the queue, or the queue is empty
and the line holds its level. A frame is only its expansion to levels (R72) and a reset is no tick (R156). -/
def awaitsTick (s : State) : Bool :=
  match s.inputs with
  | [] => true
  | .level _ :: _ => true
  | .frame _ _ :: _ => false
  | .reset :: _ => false

/-- A step of the core with the flag as given after it. -/
def stepWithFlag (flag : Bool) (s : State) : Host.Outcome FlaggedCore Fault Refusal :=
  match step s with
  | .next c => .next { tickFlag := flag, core := c }
  | .fault r => .fault r
  | .refused r => .refused r

/-- One turn of the loop. At a tick it is the busy-wait (R51, R152): with the flag clear it only waits; with the
flag set it clears it and performs one step, which is exactly one TICK. A frame and a reset at the head of the
queue are taken at once, without waiting for the flag, and leave it as it is, so that no pending tick is spent on
them. What a RESET does to `tick_flag`, and whether it waits for the flag, the spec does not say: DESIGN CHOICE,
unsafe (log 26). Whether a core that is not active consumes a pending tick the spec does not say either, only that it
takes no step (R153): here its turn clears the flag and takes the level, as an active core's does, and its TICK
changes no state of R10: DESIGN CHOICE, unsafe (log 27). -/
def loopTurn (l : FlaggedCore) : Host.Outcome FlaggedCore Fault Refusal :=
  if awaitsTick l.core then
    if l.tickFlag then stepWithFlag false l.core else .next l
  else stepWithFlag l.tickFlag l.core

end Sys2Proof.Machine
end

