-- ==== Sys2Proof/Safety.lean ====
section
/-! DEFINITION. The terms claims are stated in: the content of a buffer, runs over a trace, the invariant of
every reachable state (spec/10_state.md R32), quiescence (spec/44_protocol_loop.md R154), and which bytes of
storage can still be observed (spec/20_memory.md R46). -/

namespace Sys2Proof.Machine

open Sys2Proof

/-- The bytes of `n` slots from an index on, indices modulo 16. -/
def slotsFrom (b : RingBuf) (i : Slot) : Nat → ByteSeq
  | 0 => []
  | n + 1 => b.slot i :: slotsFrom b (slotNext i) n

/-- The content of a ring buffer: its unread bytes, oldest first (R23, R42). -/
def RingBuf.content (b : RingBuf) : ByteSeq := slotsFrom b b.rd (rbCount b).toNat

/-- The run over an input trace, one TICK per level (R154). -/
def runTrace : List Level → State → Answer
  | [], s => .next s
  | x :: xs, s =>
    match exec (.tick x) s with
    | .next t => runTrace xs t
    | .fault r => .fault r
    | .refused r => .refused r

/-- The run of `k` ticks with `rx_in` wired to `tx_pin`: the sample is the level the pin has before the
tick's TX.DRIVE (R119). -/
def runLoopback : Nat → State → Answer
  | 0, s => .next s
  | k + 1, s =>
    match exec (.tick s.txPin) s with
    | .next t => runLoopback k t
    | .fault r => .fault r
    | .refused r => .refused r

/-- The longest query of a table, 0 for the empty table (`Lmax`, R140). -/
def longestQuery : List QueryTableEntry → Nat
  | [] => 0
  | e :: rest => max e.query.length (longestQuery rest)

/-- A cursor with exactly one bit set (R14). -/
def cursorOneBit (c : BitVec 8) : Bool :=
  c = 0x01 || c = 0x02 || c = 0x04 || c = 0x08 || c = 0x10 || c = 0x20 || c = 0x40 || c = 0x80

/-- What a cursor is in a phase (R32 (c)). -/
def cursorFits (p : Phase) (c : BitVec 8) : Bool :=
  match p with
  | .idle => true
  | .start => true
  | .data => cursorOneBit c
  | .parity => c = cursorDone
  | .stop => c = cursorDone

/-- How many bytes RXB may hold in a phase of the receiver (R32 (e), R140): before a byte is published,
none or fewer than the longest query; after, at most one more. -/
def rxCountFits (p : Phase) (n longest : Nat) : Bool :=
  match p with
  | .idle => n = 0 || n < longest
  | .start => n = 0 || n < longest
  | .data => n = 0 || n < longest
  | .parity => n ≤ max longest 1
  | .stop => n ≤ max longest 1

/-- The transmitter has the byte it is sending: in START and DATA the buffer is not empty (R85, R115). -/
def txHasByte (s : State) : Bool :=
  match s.txPhase with
  | .start => s.txb.rd ≠ s.txb.wr
  | .data => s.txb.rd ≠ s.txb.wr
  | .idle => true
  | .parity => true
  | .stop => true

/-- The invariant of every reachable state (R32), with the canonical form of the two memories and what the
transmitter's phases imply. -/
structure Inv (s : State) : Prop where
  /-- R32 (a) -/
  rxWaitBound : s.rxWait.toNat ≤ 4
  /-- R32 (a) -/
  txWaitBound : s.txWait.toNat ≤ 4
  /-- R32 (b) -/
  rxIdleNoWait : s.rxPhase = .idle → s.rxWait = 0
  /-- R32 (c) -/
  rxCursor : cursorFits s.rxPhase s.rxBit = true
  /-- R32 (c) -/
  txCursor : cursorFits s.txPhase s.txBit = true
  /-- R32 (d) -/
  rxbOrigin : s.rxb.rd = 0
  /-- R32 (e), R140 -/
  rxbCount : rxCountFits s.rxPhase (rbCount s.rxb).toNat (longestQuery s.table) = true
  /-- R32 (g) -/
  timeoutBound : s.rxTimeout.toNat ≤ 480
  /-- R85, R115 -/
  txByte : txHasByte s = true
  /-- while the transmitter is idle `tx_level` is 1 (R111, R113) -/
  txIdleLevel : s.txPhase = .idle → s.txLevel = high
  /-- the canonical form of `rxb_mem` -/
  rxbMemory : s.rxb.mem.wf = true
  /-- the canonical form of `txb_mem` -/
  txbMemory : s.txb.mem.wf = true
  /-- R64 -/
  tableOk : tableWf s.table = true

/-- A quiescent state (R154): both phases IDLE, both waits 0, both buffers empty, no timeout running. -/
def quiescent (s : State) : Bool :=
  s.rxPhase = .idle && s.txPhase = .idle && s.rxWait = 0 && s.txWait = 0 && s.rxb.rd = s.rxb.wr &&
    s.txb.rd = s.txb.wr && s.rxTimeout = 0

/-- Two ring buffers with the same indices and the same content; stale slots may differ (R30, D19). -/
def sameContent (a b : RingBuf) : Prop :=
  a.wr = b.wr ∧ a.rd = b.rd ∧ a.content = b.content

/-- Two states that differ at most in stale storage: everything but the two memories is equal, the contents
are equal, and so is the byte under construction while the receiver is in DATA (R45, R46). -/
def sameButStale (s t : State) : Prop :=
  { s with rxb := RingBuf.reset, txb := RingBuf.reset } = { t with rxb := RingBuf.reset, txb := RingBuf.reset } ∧
    sameContent s.rxb t.rxb ∧ sameContent s.txb t.txb ∧
    (s.rxPhase = .data → s.rxb.slot s.rxb.wr = t.rxb.slot t.rxb.wr)

/-- The query of an entry is at the head of a content (R131, R132). -/
def queryMatches (content : ByteSeq) (e : QueryTableEntry) : Bool :=
  e.query.length ≤ content.length && content.take e.query.length = e.query

/-- No entry of the table has its whole query at the head of RXB (R131). -/
def noEntryMatches (s : State) : Prop :=
  ∀ e ∈ s.table, queryMatches s.rxb.content e = false

/-- Some entry needs more bytes than RXB holds (R131, `could_match`). -/
def someEntryLonger (s : State) : Prop :=
  ∃ e ∈ s.table, s.rxb.content.length < e.query.length

end Sys2Proof.Machine
end

