-- ==== Sys2Proof/Certificates/Slice0/Obligations.lean ====
section
/-! DEFINITION. The statements for the provers. Each docstring says which rule of spec/ it formalises; where it
rests on a choice of the model it names the log entry. -/

open Sys2Proof Sys2Proof.Machine

/-! ## Encodings -/

/-- R68, R60, R69 (a): words written out bit by bit decode to the operations they stand for: all sixteen dispatch
words of either machine, the eight wait words and the three reserved ones (treated as IDLE, log 8) among them, and
two frames. That a dispatch word stands in one byte and a frame in two, the levels sent first in the first byte,
is the model's (log 10). -/
def Obligations.WrittenWordsDecode : Prop :=
  [0b00000000, 0b00000001, 0b00000010, 0b00000011, 0b00000100, 0b00000101, 0b00000110, 0b00000111].map
      (fun w => decode .receiver [w]) = List.replicate 8 (.ok .rxWait) ∧
  [0b00001000, 0b00001001, 0b00001010, 0b00001011, 0b00001100, 0b00001101, 0b00001110, 0b00001111].map
      (fun w => decode .receiver [w]) =
    [.ok .rxIdle, .ok .rxStart, .ok .rxData, .ok .rxParity, .ok .rxStop, .ok .rxIdle, .ok .rxIdle, .ok .rxIdle] ∧
  [0b00000000, 0b00000001, 0b00000010, 0b00000011, 0b00000100, 0b00000101, 0b00000110, 0b00000111].map
      (fun w => decode .transmitter [w]) = List.replicate 8 (.ok .txWait) ∧
  [0b00001000, 0b00001001, 0b00001010, 0b00001011, 0b00001100, 0b00001101, 0b00001110, 0b00001111].map
      (fun w => decode .transmitter [w]) =
    [.ok .txIdle, .ok .txStart, .ok .txData, .ok .txParity, .ok .txStop, .ok .txIdle, .ok .txIdle, .ok .txIdle] ∧
  decode .wire [0b10100010, 0b00000110] = .ok (.frame 0x51 high) ∧
  decode .wire [0b11111110, 0b00000101] = .ok (.frame 0xFF low)

/-- R60, R68: decode and encode agree on every well-formed instruction that has an encoding, with every
operand at every value. -/
def Obligations.DecodeOfEncodeIsTheInstruction : Prop :=
  ∀ (i : Instr) (sp : Space) (bs : List Byte),
    i.wf = true → encode i = some (sp, bs) → decode sp bs = .ok i

/-- R60: no bit of a frame is dropped: bytes that decode to an instruction on the wire are that instruction's
encoding, and the instruction is a FRAME. -/
def Obligations.EncodeOfDecodedFrameIsTheFrame : Prop :=
  ∀ (bs : List Byte) (i : Instr),
    decode .wire bs = .ok i → encode i = some (.wire, bs) ∧ ∃ b p, i = .frame b p

/-- R60, R41: the levels of a frame's eleven bit periods are bits 0 to 10 of its word: start 0, the data byte
least significant bit first, parity, stop 1. -/
def Obligations.FrameWordHoldsTheBitPeriods : Prop :=
  ∀ (b : Byte) (p : Level),
    (frameWord b p).getLsbD 0 = low ∧ (∀ k : Fin 8, (frameWord b p).getLsbD (k.val + 1) = b.getLsbD k.val) ∧
      (frameWord b p).getLsbD 9 = p ∧ (frameWord b p).getLsbD 10 = high

/-- R62: `P(b)` is set iff the byte has an odd number of 1-bits, and is what the accumulator holds after it has
started at 0 and stepped over the eight data bits. -/
def Obligations.EvenParityIsOddOnes : Prop :=
  ∀ b : Byte,
    (evenParity b = true ↔ ((List.range 8).filter (fun k => b.getLsbD k)).length % 2 = 1) ∧
      evenParity b = (List.range 8).foldl (fun acc k => parityStep acc (b.getLsbD k)) parityClear

/-! ## The step -/

/-- R150, R156: a step runs the operation the environment causes next: the level, frame or reset at the head of
the queue; with nothing queued a tick at which the line has kept its level (log 2). -/
def Obligations.StepRunsTheFetchedOperation : Prop :=
  ∀ s : State,
    (s.inputs = [] → step s = exec (.tick s.rxIn) s) ∧
    (∀ x rest, s.inputs = .level x :: rest → step s = exec (.tick x) { s with inputs := rest }) ∧
    (∀ b p rest, s.inputs = .frame b p :: rest → step s = exec (.frame b p) { s with inputs := rest }) ∧
    (∀ rest, s.inputs = .reset :: rest → step s = exec .reset { s with inputs := rest })

/-- R150, R151: TICK of an active core is its seven sub-steps in their order, each the operation of that name,
and the two dispatched ones the operations their dispatch words decode to (R68, R90, R110; that a word stands in
one byte is the model's, log 10). It always has a next state. A core that is not active is InactiveCoreTakesNoStep
(R153, log 17). -/
def Obligations.TickIsItsSubStepsInOrder : Prop :=
  ∀ (s : State) (x : Level), s.active = true →
    ∃ (s2 s3 s4 s5 s6 t : State) (i j : Instr),
      exec .txDrive { s with rxIn := x, events := [] } = .next s2 ∧
      exec .toTick s2 = .next s3 ∧
      decode .receiver [(rxDispatchWord (rxCountDown s3)).setWidth 8] = .ok i ∧
      exec i (rxCountDown s3) = .next s4 ∧
      exec (.rxLatch x) s4 = .next s5 ∧
      decode .transmitter [(txDispatchWord (txCountDown s5)).setWidth 8] = .ok j ∧
      exec j (txCountDown s5) = .next s6 ∧
      exec .cmGate s6 = .next t ∧
      exec (.tick x) s = .next t

/-- R153: a core that is not active takes no step: a tick changes nothing but the level on `rx_in` and the
event set, which is empty; it does not drive the output line. -/
def Obligations.InactiveCoreTakesNoStep : Prop :=
  ∀ (s : State) (x : Level), s.active = false →
    exec (.tick x) s = .next { s with rxIn := x, events := [] } ∧ s.txLine = none

/-- R90: the receiver's dispatch. A wait of 2 or more counts down and nothing else happens; a wait of 1 and a
wait of 0 both let the phase action run, with the wait 0. -/
def Obligations.ReceiverDispatchWaitsThenActs : Prop :=
  ∀ s : State,
    (2 ≤ s.rxWait.toNat → rxDispatch s = { s with rxWait := s.rxWait - 1 }) ∧
    (s.rxWait.toNat ≤ 1 → exec (rxAction s.rxPhase) { s with rxWait := 0 } = .next (rxDispatch s))

/-- R110: the transmitter's dispatch, as the receiver's. -/
def Obligations.TransmitterDispatchWaitsThenActs : Prop :=
  ∀ s : State,
    (2 ≤ s.txWait.toNat → txDispatch s = { s with txWait := s.txWait - 1 }) ∧
    (s.txWait.toNat ≤ 1 → exec (txAction s.txPhase) { s with txWait := 0 } = .next (txDispatch s))

/-- R151: the receiver and the transmitter share no state: taken in either order, from any state, they leave
the same state but for the order of the events: the same events are there. -/
def Obligations.ReceiverAndTransmitterCommute : Prop :=
  ∀ s : State,
    { txDispatch (rxDispatch s) with events := [] } = { rxDispatch (txDispatch s) with events := [] } ∧
    (txDispatch (rxDispatch s)).events.Perm (rxDispatch (txDispatch s)).events

/-- R150, R155: the step is total: every state has a next state, none faults and none is refused. -/
def Obligations.StepAlwaysHasANextState : Prop :=
  ∀ s : State, ∃ t, step s = .next t

/-- R18, R91, R52, R27: after a tick of an active core the pin shows the level decided before the tick,
`rx_last` is the sample, and the table, `enable` and the environment's queue are as they were. -/
def Obligations.TickLagsThePinAndLatchesTheSample : Prop :=
  ∀ (s t : State) (x : Level), s.active = true → exec (.tick x) s = .next t →
    t.txPin = s.txLevel ∧ t.txLine = some s.txLevel ∧ t.rxLast = x ∧ t.table = s.table ∧
      t.enable = s.enable ∧ t.inputs = s.inputs

/-- R154: a run of the host's core over a queue of levels is the run over that trace. -/
def Obligations.RunOverTheQueueIsTheRunOverTheTrace : Prop :=
  ∀ (xs : List Level) (rest : List Stimulus) (s : State),
    Host.Core.run Sys2Proof.core xs.length { s with inputs := levelStimuli xs ++ rest } =
      runTrace xs { s with inputs := rest }

/-- R30, R51, R152, R193: where the environment's next act is a tick, with the level it presents or with the line
held (log 2), a tick that arrives while the flag is set is absorbed; a turn with the flag clear only waits; a turn
with the flag set clears it and takes exactly one step, which is one TICK. For a core that is not active the spec
says only that it takes no step; that its turn consumes the pending tick too is the model's choice (log 27). -/
def Obligations.SecondTickIsAbsorbed : Prop :=
  ∀ (l : FlaggedCore) (x : Level) (rest : List Stimulus),
    (l.core.inputs = .level x :: rest ∨ (l.core.inputs = [] ∧ x = l.core.rxIn ∧ rest = [])) →
    ∃ t, exec (.tick x) { l.core with inputs := rest } = .next t ∧
      loopTurn (tickArrives (tickArrives l)) = .next { tickFlag := false, core := t } ∧
      loopTurn (tickArrives l) = .next { tickFlag := false, core := t } ∧
      loopTurn { l with tickFlag := false } = .next { l with tickFlag := false }

/-- The model's choice where the spec is silent (log 26): a frame and a reset at the head of the queue are taken
without waiting for the flag and leave it as it is, so that a pending tick is still there for a TICK. -/
def Obligations.FrameAndResetLeaveThePendingTick : Prop :=
  ∀ (l : FlaggedCore) (rest : List Stimulus),
    (∀ b p, l.core.inputs = .frame b p :: rest → ∃ t,
      exec (.frame b p) { l.core with inputs := rest } = .next t ∧ loopTurn l = .next { l with core := t }) ∧
    (l.core.inputs = .reset :: rest → ∃ t,
      exec .reset { l.core with inputs := rest } = .next t ∧ loopTurn l = .next { l with core := t })

/-! ## Reset -/

/-- R190: RESET, from any state, gives every register its reset value, reads `enable`, and writes neither table,
port nor the environment's queue. That the bytes of both storages stay as they are is the model's reading of "are
not written" (log 5): the rule leaves their values after RESET unspecified. The last line, on `events` and `ret`,
is the model's too (log 13, log 14). -/
def Obligations.ResetRestoresTheResetValues : Prop :=
  ∀ s : State, ∃ t, exec .reset s = .next t ∧
    t.rxLast = low ∧ t.rxPhase = .idle ∧ t.rxWait = 0 ∧ t.rxBit = 0x01 ∧ t.rxParity = low ∧ t.rxTimeout = 0 ∧
    t.txLevel = high ∧ t.txPin = high ∧ t.txPhase = .idle ∧ t.txWait = 0 ∧ t.txBit = 0x01 ∧ t.txParity = low ∧
    t.rxb.wr = 0 ∧ t.rxb.rd = 0 ∧ t.txb.wr = 0 ∧ t.txb.rd = 0 ∧
    t.rxb.mem = s.rxb.mem ∧ t.txb.mem = s.txb.mem ∧ t.active = s.enable ∧ t.enable = s.enable ∧
    t.rxIn = s.rxIn ∧ t.table = s.table ∧ t.inputs = s.inputs ∧
    t.events = [] ∧ t.ret = .nothing

/-- R190, R154: the first tick after reset with the line high changes only `rx_last`; from then on such ticks
change nothing. The idle level on the port at reset is the model's (log 3). -/
def Obligations.FirstHighTickAfterResetChangesOnlyRxLast : Prop :=
  exec (.tick high) State.reset = .next { State.reset with rxLast := high } ∧
  exec (.tick high) { State.reset with rxLast := high } = .next { State.reset with rxLast := high }

/-! ## Ring buffer -/

/-- R80, R81: the count is the difference of the indices modulo 16, 0 exactly when they are equal; the free space
is 15 less the count; nothing is written (what is returned stands in `ret`, log 14). -/
def Obligations.CountAndFreeAreReturned : Prop :=
  ∀ (s : State) (b : Buf), ∃ n f : Slot,
    exec (.rbCount b) s = .next { s with ret := .number n } ∧
    n.toNat = ((s.buf b).wr.toNat + 16 - (s.buf b).rd.toNat) % 16 ∧
    (n = 0 ↔ (s.buf b).rd = (s.buf b).wr) ∧
    exec (.rbFree b) s = .next { s with ret := .number f } ∧
    f.toNat = 15 - n.toNat

/-- R82: below the count the byte is the one `j` slots after the read index, modulo 16, the `j`-th of the
content, and nothing is written; from the count on the call is refused. -/
def Obligations.RbPeekReadsOrRefuses : Prop :=
  ∀ (s : State) (b : Buf) (j : Slot),
    (j.toNat < (s.buf b).content.length → ∃ v,
      exec (.rbPeek b j) s = .next { s with ret := .byte v } ∧
      v = (s.buf b).slot ((s.buf b).rd + j) ∧ (s.buf b).content[j.toNat]? = some v) ∧
    ((s.buf b).content.length ≤ j.toNat → exec (.rbPeek b j) s = .refused .peekBeyondContent)

/-- R83: with fewer than 15 bytes the byte assembled in the slot at the write index is published; with 15 the
commit is rejected and nothing is written. The storage is never written. -/
def Obligations.RbCommitPublishesOrRejects : Prop :=
  ∀ (s : State) (b : Buf),
    ((s.buf b).content.length < 15 → ∃ t,
      exec (.rbCommit b) s = .next t ∧
      t = { s.setBuf b { s.buf b with wr := (s.buf b).wr + 1 } with ret := .accepted true } ∧
      (t.buf b).content = (s.buf b).content ++ [(s.buf b).slot (s.buf b).wr]) ∧
    ((s.buf b).content.length = 15 → exec (.rbCommit b) s = .next { s with ret := .accepted false })

/-- R84: a sequence that fits is appended whole, at the write index on, and no other slot changes; one that does
not fit leaves everything as it was. -/
def Obligations.RbAppendIsWholeOrNothing : Prop :=
  ∀ (s : State) (b : Buf) (seq : ByteSeq),
    (Instr.rbAppend b seq).wf = true → (s.buf b).mem.wf = true →
    (seq.length ≤ 15 - (s.buf b).content.length → ∃ t,
      exec (.rbAppend b seq) s = .next t ∧
      t = { s.setBuf b (t.buf b) with ret := .accepted true } ∧
      (t.buf b).content = (s.buf b).content ++ seq ∧
      (t.buf b).rd = (s.buf b).rd ∧
      (t.buf b).wr = (s.buf b).wr + BitVec.ofNat 4 seq.length ∧
      (∀ a : Slot, (∀ k < seq.length, a ≠ (s.buf b).wr + BitVec.ofNat 4 k) →
        (t.buf b).slot a = (s.buf b).slot a)) ∧
    (15 - (s.buf b).content.length < seq.length →
      exec (.rbAppend b seq) s = .next { s with ret := .accepted false })

/-- R85: the byte at the read index is consumed and the storage stands; on an empty buffer, where the rule's
operand does not reach (U6), the call is refused (log 15). -/
def Obligations.RbAdvConsumesTheOldestByte : Prop :=
  ∀ (s : State) (b : Buf),
    ((s.buf b).content ≠ [] → ∃ t,
      exec (.rbAdv b) s = .next t ∧ t = s.setBuf b { s.buf b with rd := (s.buf b).rd + 1 } ∧
      (s.buf b).content = (s.buf b).slot (s.buf b).rd :: (t.buf b).content) ∧
    ((s.buf b).content = [] → exec (.rbAdv b) s = .refused .advOnEmpty)

/-- R86: both indices go to 0, the content is empty and every slot keeps its byte. -/
def Obligations.RbClearEmptiesAndKeepsTheStorage : Prop :=
  ∀ (s : State) (b : Buf), ∃ t,
    exec (.rbClear b) s = .next t ∧ t = s.setBuf b { s.buf b with rd := 0, wr := 0 } ∧
    (t.buf b).content = [] ∧ ∀ a : Slot, (t.buf b).slot a = (s.buf b).slot a

/-- R44 and the canonical form of storage (log 4): two canonical storages that read the same at every slot are
the same data. -/
def Obligations.EqualReadsMakeEqualStorage : Prop :=
  ∀ m n : Memory, m.wf = true → n.wf = true → (∀ a : Slot, m.read a.toNat = n.read a.toNat) → m = n

/-! ## Receiver -/

/-- R92, R112: a tick inside a wait does nothing more than the dispatcher's decrement. -/
def Obligations.WaitOperationsChangeNothing : Prop :=
  ∀ s : State, exec .rxWait s = .next s ∧ exec .txWait s = .next s

/-- R93: a high level followed by a low one starts a frame; every other pair changes nothing. -/
def Obligations.RxIdleStartsOnlyOnAFallingEdge : Prop :=
  ∀ s : State,
    (s.rxLast = high ∧ s.rxIn = low → exec .rxIdle s = .next { s with rxPhase := .start, rxWait := 1 }) ∧
    (¬ (s.rxLast = high ∧ s.rxIn = low) → exec .rxIdle s = .next s)

/-- R94, R135, R171: a line still low commits the start bit: parity 0, cursor 0x01, the slot at the write index
zeroed, the timeout armed unless it runs, a wait of 4. A line high again is a glitch: IDLE, wait 0, EV_GLITCH,
and nothing else. -/
def Obligations.RxStartCommitsOrDismisses : Prop :=
  ∀ s : State, s.rxb.mem.wf = true →
    (s.rxIn = low → ∃ t,
      exec .rxStart s = .next t ∧
      t = { s with
        rxPhase := .data
        rxParity := low
        rxBit := 0x01
        rxTimeout := if s.rxTimeout = 0 then 480 else s.rxTimeout
        rxWait := 4
        rxb := t.rxb } ∧
      t.rxb.wr = s.rxb.wr ∧ t.rxb.rd = s.rxb.rd ∧
      ∀ a : Slot, t.rxb.slot a = if a = s.rxb.wr then 0x00 else s.rxb.slot a) ∧
    (s.rxIn = high →
      exec .rxStart s = .next { s with rxPhase := .idle, rxWait := 0, events := s.events ++ [.glitch] })

/-- R95, R175: one data bit. A high sample sets the cursor's bit in the slot at the write index and toggles the
parity; the cursor doubles; when it becomes 0 the byte is committed, or lost when RXB holds 15 bytes, and the
phase is PARITY. The wait is 4 in every case and no other slot changes. -/
def Obligations.RxDataTakesOneBit : Prop :=
  ∀ s : State, s.rxb.mem.wf = true →
    let v := if s.rxIn = high then s.rxb.slot s.rxb.wr ||| s.rxBit else s.rxb.slot s.rxb.wr
    let done := s.rxBit <<< 1 = 0
    let room := s.rxb.content.length < 15
    ∃ t, exec .rxData s = .next t ∧
      t = { s with
        rxb := t.rxb
        rxParity := xor s.rxParity s.rxIn
        rxBit := s.rxBit <<< 1
        rxPhase := if done then .parity else s.rxPhase
        rxWait := 4
        events := s.events ++ (if done then [if room then .rxByte v else .rxOverflow] else []) } ∧
      t.rxb.rd = s.rxb.rd ∧
      t.rxb.wr = (if done ∧ room then s.rxb.wr + 1 else s.rxb.wr) ∧
      ∀ a : Slot, t.rxb.slot a = if a = s.rxb.wr then v else s.rxb.slot a

/-- R96, R172: the parity check goes to STOP with a wait of 4; a mismatch adds EV_PARITY and changes nothing
else. -/
def Obligations.RxParityOnlyReportsAMismatch : Prop :=
  ∀ s : State,
    exec .rxParity s = .next { s with
      rxPhase := .stop
      rxWait := 4
      events := if s.rxIn = s.rxParity then s.events else s.events ++ [.parity] }

/-- R97, R173: the stop check goes to IDLE with a wait of 0; a low sample adds EV_STOP and changes nothing
else. -/
def Obligations.RxStopOnlyReportsALowStop : Prop :=
  ∀ s : State,
    exec .rxStop s = .next { s with
      rxPhase := .idle
      rxWait := 0
      events := if s.rxIn = high then s.events else s.events ++ [.stop] }

/-- R91, R111: the sample is latched; the decided level is driven. -/
def Obligations.LatchAndDriveCopyOneLevel : Prop :=
  ∀ (s : State) (x : Level),
    exec (.rxLatch x) s = .next { s with rxLast := x } ∧ exec .txDrive s = .next { s with txPin := s.txLevel }

/-- R98: the phases of a frame are fixed by the edge and the low re-check alone, whatever the forty later
samples are. -/
def Obligations.ReceivedFrameKeepsTheTimeline : Prop :=
  ∀ (s : State) (xs : List Level) (k : Nat),
    s.active = true → s.rxPhase = .idle → s.rxWait = 0 → s.rxLast = high → xs.length = 40 →
    1 ≤ k → k ≤ 42 →
    ∃ t, runTrace ((low :: low :: xs).take k) s = .next t ∧
      t.rxPhase = if k < 2 then .start else if k < 34 then .data else if k < 38 then .parity
        else if k < 42 then .stop else .idle

/-- R98, R63: the byte received is assembled from the samples at `t0 + 5 + 4k`, and is appended to the content
of RXB at `t0 + 33`. -/
def Obligations.ReceivedByteIsItsEightSamples : Prop :=
  ∀ (s : State) (xs : List Level),
    Inv s → s.active = true → s.rxPhase = .idle → s.rxLast = high → xs.length = 32 →
    ∃ (t : State) (b : Byte), runTrace (low :: low :: xs) s = .next t ∧
      (∀ k : Fin 8, some (b.getLsbD k.val) = xs[3 + 4 * k.val]?) ∧
      t.rxb.content = s.rxb.content ++ [b] ∧ t.rxb.wr = s.rxb.wr + 1 ∧
      t.rxPhase = .parity ∧ t.rxParity = evenParity b ∧ .rxByte b ∈ t.events

/-- R99, R96, R97, R72, R172, R173: a frame on the wire is received whatever its parity and stop levels are: its
byte is appended, a wrong parity bit adds EV_PARITY at `t0 + 37`, a low stop bit adds EV_STOP at `t0 + 41`, and the
receiver is then IDLE. A frame of the same byte with any other parity and stop levels leaves the same state but
for the line's last level (`rx_last` and the port) and EV_STOP. -/
def Obligations.WireFrameIsReceived : Prop :=
  ∀ (s : State) (b : Byte) (p stop : Level),
    Inv s → s.active = true → s.rxPhase = .idle → s.rxLast = high →
    (∃ t, runTrace ((stimFrame b p stop 4).take 34) s = .next t ∧
      t.rxb.content = s.rxb.content ++ [b] ∧ t.rxb.wr = s.rxb.wr + 1 ∧ .rxByte b ∈ t.events) ∧
    (∃ t, runTrace ((stimFrame b p stop 4).take 38) s = .next t ∧
      t.rxb.content = s.rxb.content ++ [b] ∧ (.parity ∈ t.events ↔ p ≠ evenParity b)) ∧
    (∃ t, runTrace ((stimFrame b p stop 4).take 42) s = .next t ∧
      t.rxPhase = .idle ∧ t.rxLast = stop ∧ (.stop ∈ t.events ↔ stop = low) ∧
      ∀ p' stop' : Level, ∃ t', runTrace ((stimFrame b p' stop' 4).take 42) s = .next t' ∧
        { t' with rxLast := t.rxLast, rxIn := t.rxIn, events := t.events } = t ∧
        t'.events.filter (fun e => e ≠ .stop) = t.events.filter (fun e => e ≠ .stop))

/-! ## Transmitter -/

/-- R113: with an unread byte the transmitter goes to START with a wait of 1; with none it resets both indices.
`tx_level` and the storage stand. -/
def Obligations.TxIdleStartsOrReclaims : Prop :=
  ∀ s : State,
    (s.txb.rd ≠ s.txb.wr → exec .txIdle s = .next { s with txPhase := .start, txWait := 1 }) ∧
    (s.txb.rd = s.txb.wr → exec .txIdle s = .next { s with txb := { s.txb with rd := 0, wr := 0 } })

/-- R115: one data bit of the byte at the read index: its level, the parity, the cursor; when the cursor becomes
0 the read index advances, EV_TX_BYTE is added and the phase is PARITY. The wait is 4 in every case and the
storage stands. -/
def Obligations.TxDataDrivesOneBit : Prop :=
  ∀ s : State,
    let b := s.txb.slot s.txb.rd
    let x : Level := decide (b &&& s.txBit ≠ 0)
    let done := s.txBit <<< 1 = 0
    exec .txData s = .next { s with
      txLevel := x
      txParity := xor s.txParity x
      txBit := s.txBit <<< 1
      txPhase := if done then .parity else s.txPhase
      txWait := 4
      txb := if done then { s.txb with rd := s.txb.rd + 1 } else s.txb
      events := if done then s.events ++ [.txByte b] else s.events }

/-- R114, R116, R117: the start bit drives low with cursor 0x01 and parity 0 and goes to DATA, the parity bit
drives the accumulator and goes to STOP, the stop bit drives high and goes to IDLE; each with a wait of 4. -/
def Obligations.TxStartParityAndStopDriveTheirLevels : Prop :=
  ∀ s : State,
    exec .txStart s = .next { s with
      txLevel := low
      txBit := 0x01
      txParity := low
      txPhase := .data
      txWait := 4 } ∧
    exec .txParity s = .next { s with txLevel := s.txParity, txPhase := .stop, txWait := 4 } ∧
    exec .txStop s = .next { s with txLevel := high, txPhase := .idle, txWait := 4 }

/-- R118, R61: the frame of the byte at the head of TXB appears on the pin two ticks after TX.IDLE finds it,
each of its first ten levels for exactly four ticks and the stop level for five, whatever the receiver samples
meanwhile; its read index has advanced, with EV_TX_BYTE, at tick `u + 33`. -/
def Obligations.TransmittedFrameIsTheWireFrame : Prop :=
  ∀ (s : State) (xs : List Level),
    s.active = true → s.txPhase = .idle → s.txWait = 0 → s.txb.rd ≠ s.txb.wr → s.txb.mem.wf = true →
    let b := s.txb.slot s.txb.rd
    (∀ k, k < 45 → xs.length = k + 3 →
      ∃ t, runTrace xs s = .next t ∧ some t.txPin = (stimFrame b (evenParity b) high 5)[k]?) ∧
    (xs.length = 34 →
      ∃ t, runTrace xs s = .next t ∧ t.txb.rd = s.txb.rd + 1 ∧ .txByte b ∈ t.events)

/-- R99, R119, R118: with `rx_in` wired to `tx_pin` the receiver recovers every byte that stands in TXB, in order,
one every 45 ticks, also behind bytes already in RXB: byte `j` is appended to what RXB holds when its frame begins,
three ticks after its EV_TX_BYTE, and no EV_GLITCH, EV_PARITY or EV_STOP occurs in any of the frames. -/
def Obligations.LoopBackReproducesEveryByte : Prop :=
  ∀ s : State,
    Inv s → s.active = true → s.rxPhase = .idle → s.rxLast = high →
    s.txPhase = .idle → s.txWait.toNat ≤ 1 → s.txPin = high →
    ∀ (j : Nat) (b : Byte), s.txb.content[j]? = some b →
      (∃ t, runLoopback (45 * j + 34) s = .next t ∧ .txByte b ∈ t.events) ∧
      (∃ u t, runLoopback (45 * j + 3) s = .next u ∧ runLoopback (45 * j + 37) s = .next t ∧
        .rxByte b ∈ t.events ∧ t.rxb.content = u.rxb.content ++ [b] ∧
        (j = 0 → s.rxb.content = [] → t.rxb.content = [b])) ∧
      (∀ k, 45 * j + 1 ≤ k → k ≤ 45 * j + 45 → ∃ t, runLoopback k s = .next t ∧
        .glitch ∉ t.events ∧ .parity ∉ t.events ∧ .stop ∉ t.events)

/-! ## Matcher and timeout -/

/-- R135, R136, R87 (d): arming starts a timeout of 480 only when none runs; a tick of the timeout counts down
by one and stops at 0. -/
def Obligations.TimeoutArmsOnceAndCountsDown : Prop :=
  ∀ s : State,
    (s.rxTimeout = 0 → exec .toArm s = .next { s with rxTimeout := 480 }) ∧
    (s.rxTimeout ≠ 0 → exec .toArm s = .next s) ∧
    ∃ t, exec .toTick s = .next t ∧ t = { s with rxTimeout := t.rxTimeout } ∧
      t.rxTimeout.toNat = s.rxTimeout.toNat - 1

/-- R130: the gate is closed while the receiver is not IDLE or RXB is empty; open, it is CM.SCAN and then
CM.CLEAR with the scan's two results (the returned value, which a tick does not keep, is the model's: log 14). -/
def Obligations.GateOpensOnlyWhenIdleWithBytes : Prop :=
  ∀ s : State,
    (¬ (s.rxPhase = .idle ∧ s.rxb.rd ≠ s.rxb.wr) → exec .cmGate s = .next s) ∧
    (s.rxPhase = .idle ∧ s.rxb.rd ≠ s.rxb.wr → ∃ (u t : State) (m c : Bool),
      exec .cmScan s = .next u ∧ u.ret = .scan m c ∧
      exec (.cmClear m c) { u with ret := s.ret } = .next t ∧ exec .cmGate s = .next t)

/-- R131: the scan. With no entry whose whole query is at the head of RXB nothing but the two results comes of
it, and `could_match` says whether an entry is longer than the content. With a first such entry `i`, in table
order, EV_MATCH(i) is added and CM.REPLY(i) runs. -/
def Obligations.ScanTakesTheFirstMatchingEntry : Prop :=
  ∀ s : State,
    let longer := fun e : QueryTableEntry => decide (s.rxb.content.length < e.query.length)
    (noEntryMatches s → exec .cmScan s = .next { s with ret := .scan false (s.table.any longer) }) ∧
    (∀ (i : Nat) (e : QueryTableEntry), s.table[i]? = some e → queryMatches s.rxb.content e = true →
      (∀ j f, j < i → s.table[j]? = some f → queryMatches s.rxb.content f = false) →
      ∃ t, exec (.cmReply i) { s with events := s.events ++ [.matched i] } = .next t ∧
        exec .cmScan s = .next { t with ret := .scan true ((s.table.take i).any longer) })

/-- R132: a query no longer than the content is compared with the content's head, whole bytes, exactly, and
nothing is written; a longer one is refused and an index no entry has is a fault (log 15, log 16). -/
def Obligations.CompareIsEqualityWithTheHead : Prop :=
  ∀ (s : State) (i : Nat),
    (∀ e, s.table[i]? = some e →
      (e.query.length ≤ s.rxb.content.length →
        exec (.cmCmp i) s =
          .next { s with ret := .equal (decide (s.rxb.content.take e.query.length = e.query)) }) ∧
      (s.rxb.content.length < e.query.length → exec (.cmCmp i) s = .refused .cmpBeyondContent)) ∧
    (s.table[i]? = none → exec (.cmCmp i) s = .fault (.noSuchEntry i))

/-- R133, R176: a reply that fits is appended to TXB whole; one that does not leaves TXB unchanged and adds
EV_TX_OVERFLOW(i); an index no entry has is a fault (log 16). -/
def Obligations.ReplyIsAppendedOrDroppedWhole : Prop :=
  ∀ (s : State) (i : Nat), s.txb.mem.wf = true →
    (∀ e, s.table[i]? = some e →
      (e.reply.length ≤ 15 - s.txb.content.length → ∃ t,
        exec (.cmReply i) s = .next t ∧ t = { s with txb := t.txb } ∧
        t.txb.content = s.txb.content ++ e.reply ∧ t.txb.rd = s.txb.rd ∧
        (∀ a : Slot, (∀ k < e.reply.length, a ≠ s.txb.wr + BitVec.ofNat 4 k) →
          t.txb.slot a = s.txb.slot a)) ∧
      (15 - s.txb.content.length < e.reply.length →
        exec (.cmReply i) s = .next { s with events := s.events ++ [.txOverflow i] })) ∧
    (s.table[i]? = none → exec (.cmReply i) s = .fault (.noSuchEntry i))

/-- R134, R174: the clearing decision, with the priority MATCH, NOMATCH, TIMEOUT; otherwise the buffer is kept.
A clear sets RXB's indices and the timeout to 0 and leaves the storage. -/
def Obligations.ClearDecidesByPriority : Prop :=
  ∀ (s : State) (m c : Bool),
    let cleared := fun evs : List Event =>
      ({ s with events := s.events ++ evs, rxb := { s.rxb with rd := 0, wr := 0 }, rxTimeout := 0 } : State)
    (m = true → exec (.cmClear m c) s = .next (cleared [.clear .matched])) ∧
    (m = false ∧ c = false → exec (.cmClear m c) s = .next (cleared [.clear .noMatch])) ∧
    (m = false ∧ c = true ∧ s.rxTimeout = 0 →
      exec (.cmClear m c) s = .next (cleared [.timeout, .clear .timeout])) ∧
    (m = false ∧ c = true ∧ s.rxTimeout ≠ 0 → exec (.cmClear m c) s = .next s)

/-- R139: with the receiver IDLE and the query of an entry, the first in table order, at the head of RXB, the
gate appends exactly that entry's reply (or drops it whole when it does not fit) and clears RXB and the
timeout. -/
def Obligations.MatcherAnswersTheFirstMatch : Prop :=
  ∀ (s : State) (i : Nat) (e : QueryTableEntry),
    s.rxPhase = .idle → s.rxb.content ≠ [] → s.txb.mem.wf = true → s.table[i]? = some e →
    queryMatches s.rxb.content e = true →
    (∀ j f, j < i → s.table[j]? = some f → queryMatches s.rxb.content f = false) →
    ∃ t, exec .cmGate s = .next t ∧ t.rxb.content = [] ∧ t.rxb.rd = 0 ∧ t.rxb.wr = 0 ∧ t.rxTimeout = 0 ∧
      t.rxb.mem = s.rxb.mem ∧
      (e.reply.length ≤ 15 - s.txb.content.length →
        t.txb.content = s.txb.content ++ e.reply ∧ t.events = s.events ++ [.matched i, .clear .matched]) ∧
      (15 - s.txb.content.length < e.reply.length →
        t.txb = s.txb ∧ t.events = s.events ++ [.matched i, .txOverflow i, .clear .matched])

/-- R139: with no whole query at the head of RXB: while some entry is longer and the timeout runs, the gate
changes nothing; with some entry longer and the timeout out, it clears for TIMEOUT; with no entry longer, it
clears for NOMATCH. Nothing is appended in any of the three. -/
def Obligations.MatcherKeepsOrClearsTheUnmatched : Prop :=
  ∀ s : State,
    let cleared := fun evs : List Event =>
      ({ s with events := s.events ++ evs, rxb := { s.rxb with rd := 0, wr := 0 }, rxTimeout := 0 } : State)
    s.rxPhase = .idle → s.rxb.content ≠ [] → noEntryMatches s →
    (someEntryLonger s → s.rxTimeout ≠ 0 → exec .cmGate s = .next s) ∧
    (someEntryLonger s → s.rxTimeout = 0 → exec .cmGate s = .next (cleared [.timeout, .clear .timeout])) ∧
    (¬ someEntryLonger s → exec .cmGate s = .next (cleared [.clear .noMatch]))

/-- R136, R137, the source's scenario S2: a partial command with `k` ticks of timeout left and the line held
high is kept for exactly `k - 1` ticks and cleared, with EV_TIMEOUT, in the `k`-th. -/
def Obligations.PartialCommandIsClearedAtExpiry : Prop :=
  ∀ s : State,
    s.active = true → s.rxPhase = .idle → s.rxb.content ≠ [] → noEntryMatches s → someEntryLonger s →
    s.rxTimeout ≠ 0 →
    (∀ n, n < s.rxTimeout.toNat → ∃ t, runTrace (List.replicate n high) s = .next t ∧
      t.rxb = s.rxb ∧ t.rxTimeout.toNat = s.rxTimeout.toNat - n ∧ t.rxPhase = .idle) ∧
    (∃ t, runTrace (List.replicate s.rxTimeout.toNat high) s = .next t ∧
      t.rxb.content = [] ∧ t.rxTimeout = 0 ∧ [.timeout, .clear .timeout] <:+ t.events)

/-- R98, R138, R139, the source's scenario S1: from a quiescent state with the one known entry as table, the two
frames of its query leave exactly its reply in TXB and RXB empty, in the tick of the second frame's RX.STOP. -/
def Obligations.KnownQueryIsAnswered : Prop :=
  ∀ s : State,
    Inv s → s.active = true → quiescent s = true → s.rxLast = high → s.table = [knownEntry] →
    ∃ t, runTrace ((stimFrame 0x51 high high 4 ++ stimFrame 0x0D high high 4).take 86) s = .next t ∧
      t.txb.content = [0x51, 0x32, 0x0D] ∧ t.rxb.content = [] ∧ t.rxTimeout = 0 ∧
      t.events = [.matched 0, .clear .matched]

/-! ## Data formats -/

/-- R72, R61, and the model's reading of a frame as a stimulus (log 11): FRAME expands, before whatever is
queued, to the 44 levels of its eleven bit periods, four ticks each, and changes nothing else. -/
def Obligations.FrameExpandsToItsLevels : Prop :=
  ∀ (s : State) (b : Byte) (p : Level), ∃ xs : List Level,
    exec (.frame b p) s = .next { s with inputs := xs.map Stimulus.level ++ s.inputs } ∧
    xs.length = 44 ∧ ∀ k < 44, xs[k]? = some ((frameWord b p).getLsbD (k / 4))

/-- R65, and the model's reading of an entry as loaded into the table (log 12): ENTRY.KNOWN adds the pair
`0x51 0x0D`, `0x51 0x32 0x0D` at the end of the table and changes nothing else; the pair is well formed. -/
def Obligations.KnownEntryIsLoaded : Prop :=
  (∀ s : State, exec .entryKnown s = .next { s with
    table := s.table ++ [{ query := [0x51, 0x0D], reply := [0x51, 0x32, 0x0D] }] }) ∧
  knownEntry.wf = true

/-! ## The whole machine -/

/-- R32: the invariant of every reachable state is kept by every step. -/
def Obligations.StepKeepsTheInvariant : Prop :=
  ∀ s t : State, Inv s → step s = .next t → Inv t

/-- R32, R190: the invariant holds right after reset. -/
def Obligations.ResetStateHasTheInvariant : Prop :=
  Inv State.reset

/-- R140: with the invariant, no tick ever loses a received byte, and RXB never holds more than 5 bytes. -/
def Obligations.ReceiveBufferNeverOverflows : Prop :=
  ∀ (s t : State) (x : Level), Inv s → exec (.tick x) s = .next t →
    .rxOverflow ∉ t.events ∧ t.rxb.content.length ≤ 5

/-- R179: what one tick of any state can emit: at most one event of the receiver, at most one of the
transmitter, and one of the matcher's five sequences, in this order; the matcher's only with none, EV_GLITCH or
EV_STOP of the receiver's. -/
def Obligations.EventsOfOneTick : Prop :=
  ∀ (s t : State) (x : Level), exec (.tick x) s = .next t →
    ∃ r w m : List Event, t.events = r ++ w ++ m ∧
      (r = [] ∨ r = [.glitch] ∨ r = [.parity] ∨ r = [.stop] ∨ (∃ b, r = [.rxByte b]) ∨ r = [.rxOverflow]) ∧
      (w = [] ∨ ∃ b, w = [.txByte b]) ∧
      (m = [] ∨ (∃ i, m = [.matched i, .clear .matched]) ∨
        (∃ i, m = [.matched i, .txOverflow i, .clear .matched]) ∨
        m = [.clear .noMatch] ∨ m = [.timeout, .clear .timeout]) ∧
      (m ≠ [] → r = [] ∨ r = [.glitch] ∨ r = [.stop])

/-- R170: a core observed and a core unobserved behave alike: what the event set and the returned value held
before a tick has no effect on it. -/
def Obligations.ObservationHasNoEffect : Prop :=
  ∀ (s t : State) (x : Level) (evs : List Event) (r : Ret), exec (.tick x) s = .next t →
    exec (.tick x) { s with events := evs, ret := r } = .next { t with ret := r }

/-- R46, R30: stale bytes are never observed: two states that differ at most in stale storage take ticks to
states that differ at most in stale storage, with the same pin, events, phases and contents. -/
def Obligations.StaleStorageIsNeverObserved : Prop :=
  ∀ (s t s' : State) (x : Level),
    s.rxb.mem.wf = true → s.txb.mem.wf = true → t.rxb.mem.wf = true → t.txb.mem.wf = true →
    txHasByte s = true → sameButStale s t → exec (.tick x) s = .next s' →
    ∃ t', exec (.tick x) t = .next t' ∧ sameButStale s' t' ∧ txHasByte s' = true ∧
      s'.txPin = t'.txPin ∧ s'.events = t'.events

/-- R154: from a quiescent state with TXB's indices back at 0 and the pin at the decided level, a tick with the
line high that was high changes nothing but the model's record of the sample and of the events (log 3,
log 13). -/
def Obligations.QuiescentStateStands : Prop :=
  ∀ s : State, s.active = true → quiescent s = true → s.rxLast = high → s.txb.rd = 0 → s.txPin = s.txLevel →
    exec (.tick high) s = .next { s with rxIn := high, events := [] }

/-- R155: from every state with the invariant, with the line held high from then on, an active core is in a
quiescent state after at most 1200 ticks. -/
def Obligations.LineHeldHighLeadsToQuiescence : Prop :=
  ∀ s : State, Inv s → s.active = true →
    ∃ k ≤ 1200, ∃ t, runTrace (List.replicate k high) s = .next t ∧ quiescent t = true
end

