-- ==== Sys2Proof/Laws/Memory.lean ====
section
/-! SUPPORT. The laws of the storage of a buffer: what a read gives after a write, and that every memory
operation keeps the canonical form `Memory.wf`. -/

namespace Sys2Proof.Machine

open Sys2Proof

/-- A canonical list whose slots start above `a` lists nothing at `a`. -/
theorem read_of_wfFrom_lt {m : Memory} {k a : Nat} (h : memoryWfFrom k m = true) (ha : a < k) :
    m.read a = unwrittenByte := by
  induction m generalizing k with
  | nil => rfl
  | cons c rest ih =>
    obtain ⟨c1, v⟩ := c
    simp only [memoryWfFrom, Bool.and_eq_true, decide_eq_true_eq] at h
    rw [Memory.read, if_neg (by omega), ih h.2 (by omega)]

/-- Lowering the bound keeps the canonical form. -/
theorem memoryWfFrom_mono {m : Memory} {j k : Nat} (h : memoryWfFrom k m = true) (hjk : j ≤ k) :
    memoryWfFrom j m = true := by
  cases m with
  | nil => rfl
  | cons c rest =>
    simp only [memoryWfFrom, Bool.and_eq_true, decide_eq_true_eq] at h ⊢
    exact ⟨⟨⟨by omega, h.1.1.2⟩, h.1.2⟩, h.2⟩

/-- A read in front of which a cell has been put. -/
theorem read_put (a b : Nat) (v : Byte) (m : Memory) (h : v = unwrittenByte → m.read a = unwrittenByte) :
    (Memory.put a v m).read b = if b = a then v else m.read b := by
  unfold Memory.put
  split
  · next hv =>
    by_cases hb : b = a
    · subst hb; simp [h hv, hv]
    · simp [hb]
  · by_cases hb : b = a
    · simp [Memory.read, hb]
    · simp [Memory.read, hb, Ne.symm hb]

/-- Putting a cell in front of a canonical list that starts above it. -/
theorem put_wf {a k : Nat} {v : Byte} {m : Memory} (hk : k ≤ a) (ha : a < Config.rbCapacity)
    (h : memoryWfFrom (a + 1) m = true) : memoryWfFrom k (Memory.put a v m) = true := by
  unfold Memory.put
  split
  · exact memoryWfFrom_mono h (by omega)
  · next hv => simp [memoryWfFrom, hk, ha, hv, h]

theorem read_write_from {m : Memory} {k : Nat} (h : memoryWfFrom k m = true) (a b : Nat) (v : Byte) :
    (m.write a v).read b = if b = a then v else m.read b := by
  induction m generalizing k with
  | nil => exact read_put a b v [] (fun _ => rfl)
  | cons c rest ih =>
    obtain ⟨c1, w⟩ := c
    have h' := h
    simp only [memoryWfFrom, Bool.and_eq_true, decide_eq_true_eq] at h'
    unfold Memory.write
    split
    · next hlt =>
      refine read_put a b v _ (fun _ => ?_)
      rw [Memory.read, if_neg (by omega)]
      exact read_of_wfFrom_lt h'.2 (by omega)
    · split
      · next hlt heq =>
        subst heq
        rw [read_put a b v rest (fun _ => read_of_wfFrom_lt h'.2 (by omega))]
        by_cases hb : b = a
        · simp [hb]
        · simp [Memory.read, hb, Ne.symm hb]
      · next hlt hne =>
        by_cases hb : c1 = b
        · subst hb
          simp [Memory.read, Ne.symm hne]
        · simp only [Memory.read, if_neg hb]
          exact ih h'.2

theorem write_wf_from {m : Memory} {k a : Nat} {v : Byte} (h : memoryWfFrom k m = true) (hk : k ≤ a)
    (ha : a < Config.rbCapacity) : memoryWfFrom k (m.write a v) = true := by
  induction m generalizing k with
  | nil => exact put_wf hk ha rfl
  | cons c rest ih =>
    obtain ⟨c1, w⟩ := c
    have h' := h
    simp only [memoryWfFrom, Bool.and_eq_true, decide_eq_true_eq] at h'
    unfold Memory.write
    split
    · next hlt =>
      refine put_wf hk ha ?_
      simp only [memoryWfFrom, Bool.and_eq_true, decide_eq_true_eq]
      exact ⟨⟨⟨by omega, h'.1.1.2⟩, h'.1.2⟩, h'.2⟩
    · split
      · next heq => subst heq; exact put_wf hk ha h'.2
      · simp only [memoryWfFrom, Bool.and_eq_true, decide_eq_true_eq]
        exact ⟨⟨⟨h'.1.1.1, h'.1.1.2⟩, h'.1.2⟩, ih h'.2 (by omega)⟩

/-- Read after write: the slot written gives the byte, every other slot what it gave. -/
theorem read_write {m : Memory} (h : m.wf = true) (a b : Nat) (v : Byte) :
    (m.write a v).read b = if b = a then v else m.read b :=
  read_write_from h a b v

/-- A write to a slot keeps the canonical form. -/
theorem write_wf {m : Memory} {a : Nat} {v : Byte} (h : m.wf = true) (ha : a < Config.rbCapacity) :
    (m.write a v).wf = true :=
  write_wf_from h (Nat.zero_le a) ha

/-- Every index is a slot (R43). -/
theorem slot_lt (a : Slot) : a.toNat < Config.rbCapacity := a.isLt

@[simp] theorem setSlot_wr (b : RingBuf) (a : Slot) (v : Byte) : (b.setSlot a v).wr = b.wr := rfl
@[simp] theorem setSlot_rd (b : RingBuf) (a : Slot) (v : Byte) : (b.setSlot a v).rd = b.rd := rfl

/-- Reading a slot of a ring buffer after a write to one. -/
theorem slot_setSlot {b : RingBuf} (h : b.mem.wf = true) (a c : Slot) (v : Byte) :
    (b.setSlot a v).slot c = if c = a then v else b.slot c := by
  unfold RingBuf.slot RingBuf.setSlot
  rw [read_write h]
  by_cases hc : c = a
  · simp [hc]
  · rw [if_neg hc, if_neg (fun e => hc (BitVec.eq_of_toNat_eq e))]

/-- A write to a slot of a ring buffer keeps the canonical form of its storage. -/
theorem setSlot_wf {b : RingBuf} (h : b.mem.wf = true) (a : Slot) (v : Byte) :
    (b.setSlot a v).mem.wf = true :=
  write_wf h (slot_lt a)

end Sys2Proof.Machine
end

