-- ==== Sys2Proof/Laws/RingBuffer.lean ====
section
/-! SUPPORT. What each ring buffer operation can do, said once: indices, content, storage. -/

namespace Sys2Proof.Machine

open Sys2Proof

@[simp] theorem rbAdv_rd (b : RingBuf) : (rbAdv b).rd = slotNext b.rd := rfl
@[simp] theorem rbAdv_wr (b : RingBuf) : (rbAdv b).wr = b.wr := rfl
@[simp] theorem rbAdv_mem (b : RingBuf) : (rbAdv b).mem = b.mem := rfl
@[simp] theorem rbClear_rd (b : RingBuf) : (rbClear b).rd = 0 := rfl
@[simp] theorem rbClear_wr (b : RingBuf) : (rbClear b).wr = 0 := rfl
@[simp] theorem rbClear_mem (b : RingBuf) : (rbClear b).mem = b.mem := rfl
@[simp] theorem rbAdv_slot (b : RingBuf) (a : Slot) : (rbAdv b).slot a = b.slot a := rfl
@[simp] theorem rbClear_slot (b : RingBuf) (a : Slot) : (rbClear b).slot a = b.slot a := rfl

/-- The count is 0 exactly when the indices are equal (R80). -/
theorem rbCount_eq_zero (b : RingBuf) : rbCount b = 0 ↔ b.rd = b.wr := by
  unfold rbCount
  constructor <;> intro h <;> bv_omega

/-- The free space is what the count leaves of 15 (R81). -/
theorem rbFree_toNat (b : RingBuf) : (rbFree b).toNat = 15 - (rbCount b).toNat := by
  unfold rbFree Config.rbUsable
  have := (rbCount b).isLt
  bv_omega

/-- RB.COMMIT never touches the storage or the read index (R83). -/
@[simp] theorem rbCommit_mem_rd (b : RingBuf) : (rbCommit b).1.mem = b.mem ∧ (rbCommit b).1.rd = b.rd := by
  unfold rbCommit
  split <;> exact ⟨rfl, rfl⟩

@[simp] theorem rbCommit_slot (b : RingBuf) (a : Slot) : (rbCommit b).1.slot a = b.slot a := by
  unfold RingBuf.slot; rw [(rbCommit_mem_rd b).1]

/-- RB.COMMIT accepts below 15 bytes and advances the write index; otherwise it changes nothing (R83). -/
theorem rbCommit_eq (b : RingBuf) :
    rbCommit b = if (rbCount b).toNat < 15 then ({ b with wr := slotNext b.wr }, true) else (b, false) := by
  unfold rbCommit
  rw [rbFree_toNat]
  by_cases h : (rbCount b).toNat < 15
  · rw [if_pos h, if_pos (by omega)]
  · rw [if_neg h, if_neg (by omega)]

/-- Writing a sequence leaves the read index alone (R84). -/
@[simp] theorem rbWriteAll_rd (b : RingBuf) (seq : ByteSeq) : (rbWriteAll b seq).rd = b.rd := by
  induction seq generalizing b with
  | nil => rfl
  | cons v rest ih => rw [rbWriteAll, ih]; rfl

/-- Writing a sequence advances the write index by its length, modulo 16 (R84). -/
theorem rbWriteAll_wr (b : RingBuf) (seq : ByteSeq) :
    (rbWriteAll b seq).wr = b.wr + BitVec.ofNat 4 seq.length := by
  induction seq generalizing b with
  | nil => simp [rbWriteAll]
  | cons v rest ih =>
    rw [rbWriteAll, ih]
    simp only [slotNext, List.length_cons]
    bv_omega

/-- Writing a sequence keeps the canonical form. -/
theorem rbWriteAll_wf {b : RingBuf} (h : b.mem.wf = true) (seq : ByteSeq) :
    (rbWriteAll b seq).mem.wf = true := by
  induction seq generalizing b with
  | nil => exact h
  | cons v rest ih => rw [rbWriteAll]; exact ih (setSlot_wf h _ _)

/-- Writing a sequence leaves every slot alone that is not one of the slots from the write index on. -/
theorem rbWriteAll_slot_other {b : RingBuf} (h : b.mem.wf = true) (seq : ByteSeq) (a : Slot)
    (ha : ∀ k, k < seq.length → a ≠ b.wr + BitVec.ofNat 4 k) :
    (rbWriteAll b seq).slot a = b.slot a := by
  induction seq generalizing b with
  | nil => rfl
  | cons v rest ih =>
    have hstep : ∀ k, k < rest.length → a ≠ slotNext b.wr + BitVec.ofNat 4 k := by
      intro k hk e
      refine ha (k + 1) (by simpa using hk) ?_
      rw [e]
      simp only [slotNext]
      bv_omega
    have h0 : a ≠ b.wr := by simpa using ha 0 (by simp)
    have hs := slot_setSlot h b.wr a v
    rw [if_neg h0] at hs
    exact (ih (b := { b.setSlot b.wr v with wr := slotNext b.wr }) (setSlot_wf h _ _) hstep).trans hs

/-- RB.APPEND keeps the canonical form. -/
theorem rbAppend_wf {b : RingBuf} (h : b.mem.wf = true) (seq : ByteSeq) :
    (rbAppend b seq).1.mem.wf = true := by
  unfold rbAppend
  split
  · exact rbWriteAll_wf h seq
  · exact h

/-- RB.APPEND leaves the read index alone (R84). -/
@[simp] theorem rbAppend_rd (b : RingBuf) (seq : ByteSeq) : (rbAppend b seq).1.rd = b.rd := by
  unfold rbAppend
  split <;> simp

/-- RB.APPEND of a sequence that does not fit changes nothing (R84). -/
theorem rbAppend_of_not_fit {b : RingBuf} {seq : ByteSeq} (h : (rbFree b).toNat < seq.length) :
    rbAppend b seq = (b, false) := by
  unfold rbAppend
  rw [if_neg (by omega)]

/-- The content of an empty buffer is empty (R80). -/
theorem content_eq_nil_iff (b : RingBuf) : b.content = [] ↔ b.rd = b.wr := by
  rw [← rbCount_eq_zero]
  unfold RingBuf.content
  constructor
  · intro h
    cases hn : (rbCount b).toNat with
    | zero => exact BitVec.eq_of_toNat_eq (by simpa using hn)
    | succ n => rw [hn] at h; exact absurd h (by simp [slotsFrom])
  · intro h; rw [h]; rfl

theorem slotsFrom_length (b : RingBuf) (i : Slot) (n : Nat) : (slotsFrom b i n).length = n := by
  induction n generalizing i with
  | zero => rfl
  | succ n ih => simp [slotsFrom, ih]

/-- The content has as many bytes as the count says (R80). -/
@[simp] theorem content_length (b : RingBuf) : b.content.length = (rbCount b).toNat :=
  slotsFrom_length b b.rd _

end Sys2Proof.Machine
end

