-- ==== Sys2Proof/Laws/State.lean ====
section
/-! SUPPORT. One lemma per field for each straight-line update of the state: what the update writes, and that every
other field stands. -/

namespace Sys2Proof.Machine

open Sys2Proof

@[simp] theorem emit_rxLast (e : Event) (s : State) : (State.emit e s).rxLast = s.rxLast := rfl
@[simp] theorem emit_rxPhase (e : Event) (s : State) : (State.emit e s).rxPhase = s.rxPhase := rfl
@[simp] theorem emit_rxWait (e : Event) (s : State) : (State.emit e s).rxWait = s.rxWait := rfl
@[simp] theorem emit_rxBit (e : Event) (s : State) : (State.emit e s).rxBit = s.rxBit := rfl
@[simp] theorem emit_rxParity (e : Event) (s : State) : (State.emit e s).rxParity = s.rxParity := rfl
@[simp] theorem emit_rxTimeout (e : Event) (s : State) : (State.emit e s).rxTimeout = s.rxTimeout := rfl
@[simp] theorem emit_txLevel (e : Event) (s : State) : (State.emit e s).txLevel = s.txLevel := rfl
@[simp] theorem emit_txPin (e : Event) (s : State) : (State.emit e s).txPin = s.txPin := rfl
@[simp] theorem emit_txPhase (e : Event) (s : State) : (State.emit e s).txPhase = s.txPhase := rfl
@[simp] theorem emit_txWait (e : Event) (s : State) : (State.emit e s).txWait = s.txWait := rfl
@[simp] theorem emit_txBit (e : Event) (s : State) : (State.emit e s).txBit = s.txBit := rfl
@[simp] theorem emit_txParity (e : Event) (s : State) : (State.emit e s).txParity = s.txParity := rfl
@[simp] theorem emit_rxb (e : Event) (s : State) : (State.emit e s).rxb = s.rxb := rfl
@[simp] theorem emit_txb (e : Event) (s : State) : (State.emit e s).txb = s.txb := rfl
@[simp] theorem emit_rxIn (e : Event) (s : State) : (State.emit e s).rxIn = s.rxIn := rfl
@[simp] theorem emit_enable (e : Event) (s : State) : (State.emit e s).enable = s.enable := rfl
@[simp] theorem emit_active (e : Event) (s : State) : (State.emit e s).active = s.active := rfl
@[simp] theorem emit_table (e : Event) (s : State) : (State.emit e s).table = s.table := rfl
@[simp] theorem emit_inputs (e : Event) (s : State) : (State.emit e s).inputs = s.inputs := rfl
@[simp] theorem emit_events (e : Event) (s : State) : (State.emit e s).events = s.events ++ [e] := rfl
@[simp] theorem emit_ret (e : Event) (s : State) : (State.emit e s).ret = s.ret := rfl

@[simp] theorem beginTick_rxLast (x : Level) (s : State) : (beginTick x s).rxLast = s.rxLast := rfl
@[simp] theorem beginTick_rxPhase (x : Level) (s : State) : (beginTick x s).rxPhase = s.rxPhase := rfl
@[simp] theorem beginTick_rxWait (x : Level) (s : State) : (beginTick x s).rxWait = s.rxWait := rfl
@[simp] theorem beginTick_rxBit (x : Level) (s : State) : (beginTick x s).rxBit = s.rxBit := rfl
@[simp] theorem beginTick_rxParity (x : Level) (s : State) : (beginTick x s).rxParity = s.rxParity := rfl
@[simp] theorem beginTick_rxTimeout (x : Level) (s : State) : (beginTick x s).rxTimeout = s.rxTimeout := rfl
@[simp] theorem beginTick_txLevel (x : Level) (s : State) : (beginTick x s).txLevel = s.txLevel := rfl
@[simp] theorem beginTick_txPin (x : Level) (s : State) : (beginTick x s).txPin = s.txPin := rfl
@[simp] theorem beginTick_txPhase (x : Level) (s : State) : (beginTick x s).txPhase = s.txPhase := rfl
@[simp] theorem beginTick_txWait (x : Level) (s : State) : (beginTick x s).txWait = s.txWait := rfl
@[simp] theorem beginTick_txBit (x : Level) (s : State) : (beginTick x s).txBit = s.txBit := rfl
@[simp] theorem beginTick_txParity (x : Level) (s : State) : (beginTick x s).txParity = s.txParity := rfl
@[simp] theorem beginTick_rxb (x : Level) (s : State) : (beginTick x s).rxb = s.rxb := rfl
@[simp] theorem beginTick_txb (x : Level) (s : State) : (beginTick x s).txb = s.txb := rfl
@[simp] theorem beginTick_rxIn (x : Level) (s : State) : (beginTick x s).rxIn = x := rfl
@[simp] theorem beginTick_enable (x : Level) (s : State) : (beginTick x s).enable = s.enable := rfl
@[simp] theorem beginTick_active (x : Level) (s : State) : (beginTick x s).active = s.active := rfl
@[simp] theorem beginTick_table (x : Level) (s : State) : (beginTick x s).table = s.table := rfl
@[simp] theorem beginTick_inputs (x : Level) (s : State) : (beginTick x s).inputs = s.inputs := rfl
@[simp] theorem beginTick_events (x : Level) (s : State) : (beginTick x s).events = [] := rfl
@[simp] theorem beginTick_ret (x : Level) (s : State) : (beginTick x s).ret = s.ret := rfl

@[simp] theorem txDrive_rxLast (s : State) : (txDrive s).rxLast = s.rxLast := rfl
@[simp] theorem txDrive_rxPhase (s : State) : (txDrive s).rxPhase = s.rxPhase := rfl
@[simp] theorem txDrive_rxWait (s : State) : (txDrive s).rxWait = s.rxWait := rfl
@[simp] theorem txDrive_rxBit (s : State) : (txDrive s).rxBit = s.rxBit := rfl
@[simp] theorem txDrive_rxParity (s : State) : (txDrive s).rxParity = s.rxParity := rfl
@[simp] theorem txDrive_rxTimeout (s : State) : (txDrive s).rxTimeout = s.rxTimeout := rfl
@[simp] theorem txDrive_txLevel (s : State) : (txDrive s).txLevel = s.txLevel := rfl
@[simp] theorem txDrive_txPin (s : State) : (txDrive s).txPin = s.txLevel := rfl
@[simp] theorem txDrive_txPhase (s : State) : (txDrive s).txPhase = s.txPhase := rfl
@[simp] theorem txDrive_txWait (s : State) : (txDrive s).txWait = s.txWait := rfl
@[simp] theorem txDrive_txBit (s : State) : (txDrive s).txBit = s.txBit := rfl
@[simp] theorem txDrive_txParity (s : State) : (txDrive s).txParity = s.txParity := rfl
@[simp] theorem txDrive_rxb (s : State) : (txDrive s).rxb = s.rxb := rfl
@[simp] theorem txDrive_txb (s : State) : (txDrive s).txb = s.txb := rfl
@[simp] theorem txDrive_rxIn (s : State) : (txDrive s).rxIn = s.rxIn := rfl
@[simp] theorem txDrive_enable (s : State) : (txDrive s).enable = s.enable := rfl
@[simp] theorem txDrive_active (s : State) : (txDrive s).active = s.active := rfl
@[simp] theorem txDrive_table (s : State) : (txDrive s).table = s.table := rfl
@[simp] theorem txDrive_inputs (s : State) : (txDrive s).inputs = s.inputs := rfl
@[simp] theorem txDrive_events (s : State) : (txDrive s).events = s.events := rfl
@[simp] theorem txDrive_ret (s : State) : (txDrive s).ret = s.ret := rfl

@[simp] theorem toTick_rxLast (s : State) : (toTick s).rxLast = s.rxLast := rfl
@[simp] theorem toTick_rxPhase (s : State) : (toTick s).rxPhase = s.rxPhase := rfl
@[simp] theorem toTick_rxWait (s : State) : (toTick s).rxWait = s.rxWait := rfl
@[simp] theorem toTick_rxBit (s : State) : (toTick s).rxBit = s.rxBit := rfl
@[simp] theorem toTick_rxParity (s : State) : (toTick s).rxParity = s.rxParity := rfl
@[simp] theorem toTick_rxTimeout (s : State) : (toTick s).rxTimeout = countDown s.rxTimeout := rfl
@[simp] theorem toTick_txLevel (s : State) : (toTick s).txLevel = s.txLevel := rfl
@[simp] theorem toTick_txPin (s : State) : (toTick s).txPin = s.txPin := rfl
@[simp] theorem toTick_txPhase (s : State) : (toTick s).txPhase = s.txPhase := rfl
@[simp] theorem toTick_txWait (s : State) : (toTick s).txWait = s.txWait := rfl
@[simp] theorem toTick_txBit (s : State) : (toTick s).txBit = s.txBit := rfl
@[simp] theorem toTick_txParity (s : State) : (toTick s).txParity = s.txParity := rfl
@[simp] theorem toTick_rxb (s : State) : (toTick s).rxb = s.rxb := rfl
@[simp] theorem toTick_txb (s : State) : (toTick s).txb = s.txb := rfl
@[simp] theorem toTick_rxIn (s : State) : (toTick s).rxIn = s.rxIn := rfl
@[simp] theorem toTick_enable (s : State) : (toTick s).enable = s.enable := rfl
@[simp] theorem toTick_active (s : State) : (toTick s).active = s.active := rfl
@[simp] theorem toTick_table (s : State) : (toTick s).table = s.table := rfl
@[simp] theorem toTick_inputs (s : State) : (toTick s).inputs = s.inputs := rfl
@[simp] theorem toTick_events (s : State) : (toTick s).events = s.events := rfl
@[simp] theorem toTick_ret (s : State) : (toTick s).ret = s.ret := rfl

@[simp] theorem rxLatch_rxLast (x : Level) (s : State) : (rxLatch x s).rxLast = x := rfl
@[simp] theorem rxLatch_rxPhase (x : Level) (s : State) : (rxLatch x s).rxPhase = s.rxPhase := rfl
@[simp] theorem rxLatch_rxWait (x : Level) (s : State) : (rxLatch x s).rxWait = s.rxWait := rfl
@[simp] theorem rxLatch_rxBit (x : Level) (s : State) : (rxLatch x s).rxBit = s.rxBit := rfl
@[simp] theorem rxLatch_rxParity (x : Level) (s : State) : (rxLatch x s).rxParity = s.rxParity := rfl
@[simp] theorem rxLatch_rxTimeout (x : Level) (s : State) : (rxLatch x s).rxTimeout = s.rxTimeout := rfl
@[simp] theorem rxLatch_txLevel (x : Level) (s : State) : (rxLatch x s).txLevel = s.txLevel := rfl
@[simp] theorem rxLatch_txPin (x : Level) (s : State) : (rxLatch x s).txPin = s.txPin := rfl
@[simp] theorem rxLatch_txPhase (x : Level) (s : State) : (rxLatch x s).txPhase = s.txPhase := rfl
@[simp] theorem rxLatch_txWait (x : Level) (s : State) : (rxLatch x s).txWait = s.txWait := rfl
@[simp] theorem rxLatch_txBit (x : Level) (s : State) : (rxLatch x s).txBit = s.txBit := rfl
@[simp] theorem rxLatch_txParity (x : Level) (s : State) : (rxLatch x s).txParity = s.txParity := rfl
@[simp] theorem rxLatch_rxb (x : Level) (s : State) : (rxLatch x s).rxb = s.rxb := rfl
@[simp] theorem rxLatch_txb (x : Level) (s : State) : (rxLatch x s).txb = s.txb := rfl
@[simp] theorem rxLatch_rxIn (x : Level) (s : State) : (rxLatch x s).rxIn = s.rxIn := rfl
@[simp] theorem rxLatch_enable (x : Level) (s : State) : (rxLatch x s).enable = s.enable := rfl
@[simp] theorem rxLatch_active (x : Level) (s : State) : (rxLatch x s).active = s.active := rfl
@[simp] theorem rxLatch_table (x : Level) (s : State) : (rxLatch x s).table = s.table := rfl
@[simp] theorem rxLatch_inputs (x : Level) (s : State) : (rxLatch x s).inputs = s.inputs := rfl
@[simp] theorem rxLatch_events (x : Level) (s : State) : (rxLatch x s).events = s.events := rfl
@[simp] theorem rxLatch_ret (x : Level) (s : State) : (rxLatch x s).ret = s.ret := rfl

@[simp] theorem rxCountDown_rxLast (s : State) : (rxCountDown s).rxLast = s.rxLast := rfl
@[simp] theorem rxCountDown_rxPhase (s : State) : (rxCountDown s).rxPhase = s.rxPhase := rfl
@[simp] theorem rxCountDown_rxWait (s : State) : (rxCountDown s).rxWait = countDown s.rxWait := rfl
@[simp] theorem rxCountDown_rxBit (s : State) : (rxCountDown s).rxBit = s.rxBit := rfl
@[simp] theorem rxCountDown_rxParity (s : State) : (rxCountDown s).rxParity = s.rxParity := rfl
@[simp] theorem rxCountDown_rxTimeout (s : State) : (rxCountDown s).rxTimeout = s.rxTimeout := rfl
@[simp] theorem rxCountDown_txLevel (s : State) : (rxCountDown s).txLevel = s.txLevel := rfl
@[simp] theorem rxCountDown_txPin (s : State) : (rxCountDown s).txPin = s.txPin := rfl
@[simp] theorem rxCountDown_txPhase (s : State) : (rxCountDown s).txPhase = s.txPhase := rfl
@[simp] theorem rxCountDown_txWait (s : State) : (rxCountDown s).txWait = s.txWait := rfl
@[simp] theorem rxCountDown_txBit (s : State) : (rxCountDown s).txBit = s.txBit := rfl
@[simp] theorem rxCountDown_txParity (s : State) : (rxCountDown s).txParity = s.txParity := rfl
@[simp] theorem rxCountDown_rxb (s : State) : (rxCountDown s).rxb = s.rxb := rfl
@[simp] theorem rxCountDown_txb (s : State) : (rxCountDown s).txb = s.txb := rfl
@[simp] theorem rxCountDown_rxIn (s : State) : (rxCountDown s).rxIn = s.rxIn := rfl
@[simp] theorem rxCountDown_enable (s : State) : (rxCountDown s).enable = s.enable := rfl
@[simp] theorem rxCountDown_active (s : State) : (rxCountDown s).active = s.active := rfl
@[simp] theorem rxCountDown_table (s : State) : (rxCountDown s).table = s.table := rfl
@[simp] theorem rxCountDown_inputs (s : State) : (rxCountDown s).inputs = s.inputs := rfl
@[simp] theorem rxCountDown_events (s : State) : (rxCountDown s).events = s.events := rfl
@[simp] theorem rxCountDown_ret (s : State) : (rxCountDown s).ret = s.ret := rfl

@[simp] theorem txCountDown_rxLast (s : State) : (txCountDown s).rxLast = s.rxLast := rfl
@[simp] theorem txCountDown_rxPhase (s : State) : (txCountDown s).rxPhase = s.rxPhase := rfl
@[simp] theorem txCountDown_rxWait (s : State) : (txCountDown s).rxWait = s.rxWait := rfl
@[simp] theorem txCountDown_rxBit (s : State) : (txCountDown s).rxBit = s.rxBit := rfl
@[simp] theorem txCountDown_rxParity (s : State) : (txCountDown s).rxParity = s.rxParity := rfl
@[simp] theorem txCountDown_rxTimeout (s : State) : (txCountDown s).rxTimeout = s.rxTimeout := rfl
@[simp] theorem txCountDown_txLevel (s : State) : (txCountDown s).txLevel = s.txLevel := rfl
@[simp] theorem txCountDown_txPin (s : State) : (txCountDown s).txPin = s.txPin := rfl
@[simp] theorem txCountDown_txPhase (s : State) : (txCountDown s).txPhase = s.txPhase := rfl
@[simp] theorem txCountDown_txWait (s : State) : (txCountDown s).txWait = countDown s.txWait := rfl
@[simp] theorem txCountDown_txBit (s : State) : (txCountDown s).txBit = s.txBit := rfl
@[simp] theorem txCountDown_txParity (s : State) : (txCountDown s).txParity = s.txParity := rfl
@[simp] theorem txCountDown_rxb (s : State) : (txCountDown s).rxb = s.rxb := rfl
@[simp] theorem txCountDown_txb (s : State) : (txCountDown s).txb = s.txb := rfl
@[simp] theorem txCountDown_rxIn (s : State) : (txCountDown s).rxIn = s.rxIn := rfl
@[simp] theorem txCountDown_enable (s : State) : (txCountDown s).enable = s.enable := rfl
@[simp] theorem txCountDown_active (s : State) : (txCountDown s).active = s.active := rfl
@[simp] theorem txCountDown_table (s : State) : (txCountDown s).table = s.table := rfl
@[simp] theorem txCountDown_inputs (s : State) : (txCountDown s).inputs = s.inputs := rfl
@[simp] theorem txCountDown_events (s : State) : (txCountDown s).events = s.events := rfl
@[simp] theorem txCountDown_ret (s : State) : (txCountDown s).ret = s.ret := rfl

@[simp] theorem txStart_rxLast (s : State) : (txStart s).rxLast = s.rxLast := rfl
@[simp] theorem txStart_rxPhase (s : State) : (txStart s).rxPhase = s.rxPhase := rfl
@[simp] theorem txStart_rxWait (s : State) : (txStart s).rxWait = s.rxWait := rfl
@[simp] theorem txStart_rxBit (s : State) : (txStart s).rxBit = s.rxBit := rfl
@[simp] theorem txStart_rxParity (s : State) : (txStart s).rxParity = s.rxParity := rfl
@[simp] theorem txStart_rxTimeout (s : State) : (txStart s).rxTimeout = s.rxTimeout := rfl
@[simp] theorem txStart_txLevel (s : State) : (txStart s).txLevel = low := rfl
@[simp] theorem txStart_txPin (s : State) : (txStart s).txPin = s.txPin := rfl
@[simp] theorem txStart_txPhase (s : State) : (txStart s).txPhase = .data := rfl
@[simp] theorem txStart_txWait (s : State) : (txStart s).txWait = Config.quantaPerBit := rfl
@[simp] theorem txStart_txBit (s : State) : (txStart s).txBit = cursorFirst := rfl
@[simp] theorem txStart_txParity (s : State) : (txStart s).txParity = parityClear := rfl
@[simp] theorem txStart_rxb (s : State) : (txStart s).rxb = s.rxb := rfl
@[simp] theorem txStart_txb (s : State) : (txStart s).txb = s.txb := rfl
@[simp] theorem txStart_rxIn (s : State) : (txStart s).rxIn = s.rxIn := rfl
@[simp] theorem txStart_enable (s : State) : (txStart s).enable = s.enable := rfl
@[simp] theorem txStart_active (s : State) : (txStart s).active = s.active := rfl
@[simp] theorem txStart_table (s : State) : (txStart s).table = s.table := rfl
@[simp] theorem txStart_inputs (s : State) : (txStart s).inputs = s.inputs := rfl
@[simp] theorem txStart_events (s : State) : (txStart s).events = s.events := rfl
@[simp] theorem txStart_ret (s : State) : (txStart s).ret = s.ret := rfl

@[simp] theorem txParity_rxLast (s : State) : (txParity s).rxLast = s.rxLast := rfl
@[simp] theorem txParity_rxPhase (s : State) : (txParity s).rxPhase = s.rxPhase := rfl
@[simp] theorem txParity_rxWait (s : State) : (txParity s).rxWait = s.rxWait := rfl
@[simp] theorem txParity_rxBit (s : State) : (txParity s).rxBit = s.rxBit := rfl
@[simp] theorem txParity_rxParity (s : State) : (txParity s).rxParity = s.rxParity := rfl
@[simp] theorem txParity_rxTimeout (s : State) : (txParity s).rxTimeout = s.rxTimeout := rfl
@[simp] theorem txParity_txLevel (s : State) : (txParity s).txLevel = s.txParity := rfl
@[simp] theorem txParity_txPin (s : State) : (txParity s).txPin = s.txPin := rfl
@[simp] theorem txParity_txPhase (s : State) : (txParity s).txPhase = .stop := rfl
@[simp] theorem txParity_txWait (s : State) : (txParity s).txWait = Config.quantaPerBit := rfl
@[simp] theorem txParity_txBit (s : State) : (txParity s).txBit = s.txBit := rfl
@[simp] theorem txParity_txParity (s : State) : (txParity s).txParity = s.txParity := rfl
@[simp] theorem txParity_rxb (s : State) : (txParity s).rxb = s.rxb := rfl
@[simp] theorem txParity_txb (s : State) : (txParity s).txb = s.txb := rfl
@[simp] theorem txParity_rxIn (s : State) : (txParity s).rxIn = s.rxIn := rfl
@[simp] theorem txParity_enable (s : State) : (txParity s).enable = s.enable := rfl
@[simp] theorem txParity_active (s : State) : (txParity s).active = s.active := rfl
@[simp] theorem txParity_table (s : State) : (txParity s).table = s.table := rfl
@[simp] theorem txParity_inputs (s : State) : (txParity s).inputs = s.inputs := rfl
@[simp] theorem txParity_events (s : State) : (txParity s).events = s.events := rfl
@[simp] theorem txParity_ret (s : State) : (txParity s).ret = s.ret := rfl

@[simp] theorem txStop_rxLast (s : State) : (txStop s).rxLast = s.rxLast := rfl
@[simp] theorem txStop_rxPhase (s : State) : (txStop s).rxPhase = s.rxPhase := rfl
@[simp] theorem txStop_rxWait (s : State) : (txStop s).rxWait = s.rxWait := rfl
@[simp] theorem txStop_rxBit (s : State) : (txStop s).rxBit = s.rxBit := rfl
@[simp] theorem txStop_rxParity (s : State) : (txStop s).rxParity = s.rxParity := rfl
@[simp] theorem txStop_rxTimeout (s : State) : (txStop s).rxTimeout = s.rxTimeout := rfl
@[simp] theorem txStop_txLevel (s : State) : (txStop s).txLevel = high := rfl
@[simp] theorem txStop_txPin (s : State) : (txStop s).txPin = s.txPin := rfl
@[simp] theorem txStop_txPhase (s : State) : (txStop s).txPhase = .idle := rfl
@[simp] theorem txStop_txWait (s : State) : (txStop s).txWait = Config.quantaPerBit := rfl
@[simp] theorem txStop_txBit (s : State) : (txStop s).txBit = s.txBit := rfl
@[simp] theorem txStop_txParity (s : State) : (txStop s).txParity = s.txParity := rfl
@[simp] theorem txStop_rxb (s : State) : (txStop s).rxb = s.rxb := rfl
@[simp] theorem txStop_txb (s : State) : (txStop s).txb = s.txb := rfl
@[simp] theorem txStop_rxIn (s : State) : (txStop s).rxIn = s.rxIn := rfl
@[simp] theorem txStop_enable (s : State) : (txStop s).enable = s.enable := rfl
@[simp] theorem txStop_active (s : State) : (txStop s).active = s.active := rfl
@[simp] theorem txStop_table (s : State) : (txStop s).table = s.table := rfl
@[simp] theorem txStop_inputs (s : State) : (txStop s).inputs = s.inputs := rfl
@[simp] theorem txStop_events (s : State) : (txStop s).events = s.events := rfl
@[simp] theorem txStop_ret (s : State) : (txStop s).ret = s.ret := rfl

@[simp] theorem setBuf_rxb (s : State) (v : RingBuf) : s.setBuf .rxb v = { s with rxb := v } := rfl
@[simp] theorem setBuf_txb (s : State) (v : RingBuf) : s.setBuf .txb v = { s with txb := v } := rfl
@[simp] theorem buf_rxb (s : State) : s.buf .rxb = s.rxb := rfl
@[simp] theorem buf_txb (s : State) : s.buf .txb = s.txb := rfl
@[simp] theorem sample_eq_rxIn (s : State) : s.sample = s.rxIn := rfl

/-- Reading back the buffer just replaced. -/
@[simp] theorem buf_setBuf_same (s : State) (b : Buf) (v : RingBuf) : (s.setBuf b v).buf b = v := by
  cases b <;> rfl

/-- A counter that is not 0 goes down by one. -/
theorem countDown_of_ne_zero {n : Nat} {c : BitVec n} (h : c ≠ 0) : countDown c = c - 1 := by
  unfold countDown; rw [if_neg h]

/-- A counter never goes below 0 (R87 (d)): its value is the truncated predecessor. -/
theorem countDown_toNat {n : Nat} (c : BitVec n) : (countDown c).toNat = c.toNat - 1 := by
  unfold countDown
  by_cases h : c = 0
  · simp [h]
  · have hn : c.toNat ≠ 0 := fun h0 => h (BitVec.eq_of_toNat_eq (by simpa using h0))
    have hlt := c.isLt
    rw [if_neg h]
    cases n with
    | zero => omega
    | succ k =>
      have h2 : 2 ≤ 2 ^ (k + 1) := by
        have := Nat.one_le_two_pow (n := k)
        rw [Nat.pow_succ]; omega
      rw [BitVec.toNat_sub, BitVec.ofNat_eq_ofNat, BitVec.toNat_ofNat, Nat.mod_eq_of_lt (by omega : 1 < 2 ^ (k + 1))]
      have : 2 ^ (k + 1) - 1 + c.toNat = 2 ^ (k + 1) + (c.toNat - 1) := by omega
      rw [this, Nat.add_mod_left, Nat.mod_eq_of_lt (by omega)]

end Sys2Proof.Machine
end

