-- ==== Sys2Proof/Laws/Frames.lean ====
section
/-! SUPPORT. What the branching operations leave unchanged: the receiver touches only the receive state, RXB and
the events; the transmitter only the transmit state, TXB and the events; the matcher only the two buffers, the
timeout and the events (R151). And that each keeps the canonical form of the storage. -/

namespace Sys2Proof.Machine

open Sys2Proof

/-- The fields the receiver never writes (R151). -/
def rxFrame (s t : State) : Prop :=
  t.rxLast = s.rxLast ∧ t.txLevel = s.txLevel ∧ t.txPin = s.txPin ∧ t.txPhase = s.txPhase ∧
    t.txWait = s.txWait ∧ t.txBit = s.txBit ∧ t.txParity = s.txParity ∧ t.txb = s.txb ∧ t.rxIn = s.rxIn ∧
    t.enable = s.enable ∧ t.active = s.active ∧ t.table = s.table ∧ t.inputs = s.inputs ∧ t.ret = s.ret

/-- The fields the transmitter's dispatch never writes (R151). -/
def txFrame (s t : State) : Prop :=
  t.rxLast = s.rxLast ∧ t.rxPhase = s.rxPhase ∧ t.rxWait = s.rxWait ∧ t.rxBit = s.rxBit ∧
    t.rxParity = s.rxParity ∧ t.rxTimeout = s.rxTimeout ∧ t.txPin = s.txPin ∧ t.rxb = s.rxb ∧
    t.rxIn = s.rxIn ∧ t.enable = s.enable ∧ t.active = s.active ∧ t.table = s.table ∧
    t.inputs = s.inputs ∧ t.ret = s.ret

/-- The fields the matcher never writes (R130 to R134). -/
def cmFrame (s t : State) : Prop :=
  t.rxLast = s.rxLast ∧ t.rxPhase = s.rxPhase ∧ t.rxWait = s.rxWait ∧ t.rxBit = s.rxBit ∧
    t.rxParity = s.rxParity ∧ t.txLevel = s.txLevel ∧ t.txPin = s.txPin ∧ t.txPhase = s.txPhase ∧
    t.txWait = s.txWait ∧ t.txBit = s.txBit ∧ t.txParity = s.txParity ∧ t.rxIn = s.rxIn ∧
    t.enable = s.enable ∧ t.active = s.active ∧ t.table = s.table ∧ t.inputs = s.inputs ∧ t.ret = s.ret

theorem rxFrame_trans {s t u : State} (h : rxFrame s t) (k : rxFrame t u) : rxFrame s u := by
  unfold rxFrame at *; simp_all

theorem txFrame_trans {s t u : State} (h : txFrame s t) (k : txFrame t u) : txFrame s u := by
  unfold txFrame at *; simp_all

theorem cmFrame_refl (s : State) : cmFrame s s := by simp [cmFrame]

theorem cmFrame_trans {s t u : State} (h : cmFrame s t) (k : cmFrame t u) : cmFrame s u := by
  unfold cmFrame at *; simp_all

theorem rxFrame_refl (s : State) : rxFrame s s := by simp [rxFrame]

theorem txFrame_refl (s : State) : txFrame s s := by simp [txFrame]

/-- TO.ARM writes nothing but the timeout (R135). -/
theorem toArm_eq (s : State) :
    toArm s = { s with rxTimeout := if s.rxTimeout = 0 then Config.timeoutQuanta else s.rxTimeout } := by
  unfold toArm; split <;> rfl

theorem rxIdle_frame (s : State) : rxFrame s (rxIdle s) := by
  unfold rxIdle; split <;> simp [rxFrame]

theorem rxStart_frame (s : State) : rxFrame s (rxStart s) := by
  unfold rxStart rxStartCommit rxStartGlitch; split <;> simp [rxFrame, toArm_eq]

theorem rxTakeBit_frame (s : State) : rxFrame s (rxTakeBit s) := by
  unfold rxTakeBit; split <;> simp [rxFrame]

theorem rxFinishByte_frame (s : State) : rxFrame s (rxFinishByte s) := by
  simp [rxFinishByte, rxFrame]

theorem rxData_frame (s : State) : rxFrame s (rxData s) := by
  unfold rxData
  refine rxFrame_trans (rxTakeBit_frame s) ?_
  dsimp only
  split
  · simp [rxFrame, rxFinishByte]
  · simp [rxFrame]

theorem rxParity_frame (s : State) : rxFrame s (rxParity s) := by
  unfold rxParity; dsimp only; split <;> simp [rxFrame]

theorem rxStop_frame (s : State) : rxFrame s (rxStop s) := by
  unfold rxStop; dsimp only; split <;> simp [rxFrame]

/-- The receiver's dispatch writes only the receive state, RXB and the events (R90, R151). -/
theorem rxDispatch_frame (s : State) : rxFrame s (rxDispatch s) := by
  have h0 : rxFrame s (rxCountDown s) := by simp [rxFrame]
  refine rxFrame_trans h0 ?_
  unfold rxDispatch rxSelected
  split
  · split
    · exact rxIdle_frame _
    · exact rxStart_frame _
    · exact rxData_frame _
    · exact rxParity_frame _
    · exact rxStop_frame _
  · exact rxFrame_refl _

theorem txIdle_frame (s : State) : txFrame s (txIdle s) := by
  unfold txIdle; split <;> simp [txFrame]

theorem txData_frame (s : State) : txFrame s (txData s) := by
  unfold txData; dsimp only; split <;> simp [txFrame, txFinishByte]

/-- The transmitter's dispatch writes only the transmit state, TXB and the events (R110, R151). -/
theorem txDispatch_frame (s : State) : txFrame s (txDispatch s) := by
  have h0 : txFrame s (txCountDown s) := by simp [txFrame]
  refine txFrame_trans h0 ?_
  unfold txDispatch txSelected
  split
  · split
    · exact txIdle_frame _
    · simp [txFrame]
    · exact txData_frame _
    · simp [txFrame]
    · simp [txFrame]
  · exact txFrame_refl _

/-- CM.REPLY writes only TXB and the events (R133). -/
theorem cmReply_frame (i : Nat) (q : ByteSeq) (s : State) :
    cmFrame s (cmReply i q s) ∧ (cmReply i q s).rxb = s.rxb ∧ (cmReply i q s).rxTimeout = s.rxTimeout := by
  unfold cmReply; dsimp only; split <;> simp [cmFrame]

/-- CM.SCAN writes only TXB and the events (R131). -/
theorem scanFrom_frame (es : List QueryTableEntry) (i : Nat) (c : Bool) (s : State) :
    cmFrame s (scanFrom i c s es).state ∧ (scanFrom i c s es).state.rxb = s.rxb ∧
      (scanFrom i c s es).state.rxTimeout = s.rxTimeout := by
  induction es generalizing i c with
  | nil => exact ⟨cmFrame_refl s, rfl, rfl⟩
  | cons e rest ih =>
    unfold scanFrom
    split
    · exact ih _ _
    · split
      · obtain ⟨h1, h2, h3⟩ := cmReply_frame i e.reply (State.emit (.matched i) s)
        exact ⟨cmFrame_trans (by simp [cmFrame]) h1, by simpa using h2, by simpa using h3⟩
      · exact ih _ _

/-- CM.CLEAR writes only RXB's indices, the timeout and the events (R134). -/
theorem cmClear_frame (m c : Bool) (s : State) :
    cmFrame s (cmClear m c s) ∧ (cmClear m c s).txb = s.txb := by
  unfold cmClear
  split
  · exact ⟨cmFrame_refl s, rfl⟩
  · unfold clearFor; dsimp only; split <;> simp [cmFrame]

/-- CM.GATE writes only the two buffers, the timeout and the events (R130). -/
theorem cmGate_frame (s : State) : cmFrame s (cmGate s) := by
  unfold cmGate
  split
  · exact cmFrame_trans (scanFrom_frame s.table 0 false s).1 (cmClear_frame _ _ _).1
  · exact cmFrame_refl s

/-- The receiver's dispatch keeps the canonical form of RXB's storage. -/
theorem rxDispatch_wf {s : State} (h : s.rxb.mem.wf = true) : (rxDispatch s).rxb.mem.wf = true := by
  have hd (t : State) (ht : t.rxb.mem.wf = true) : (rxData t).rxb.mem.wf = true := by
    have hb : (rxTakeBit t).rxb.mem.wf = true := by
      unfold rxTakeBit; split
      · exact setSlot_wf ht _ _
      · exact ht
    unfold rxData; dsimp only; split
    · simpa [rxFinishByte] using hb
    · exact hb
  unfold rxDispatch rxSelected
  split
  · split
    · unfold rxIdle; split <;> exact h
    · unfold rxStart rxStartCommit rxStartGlitch
      split
      · rw [toArm_eq]; exact setSlot_wf h _ _
      · exact h
    · exact hd _ h
    · unfold rxParity; dsimp only; split <;> exact h
    · unfold rxStop; dsimp only; split <;> exact h
  · exact h

/-- The transmitter's dispatch does not write TXB's storage. -/
theorem txDispatch_txb_mem (s : State) : (txDispatch s).txb.mem = s.txb.mem := by
  unfold txDispatch txSelected
  split
  · split
    · unfold txIdle; split <;> rfl
    · rfl
    · unfold txData; dsimp only; split <;> rfl
    · rfl
    · rfl
  · rfl

theorem cmReply_wf (i : Nat) (q : ByteSeq) {s : State} (h : s.txb.mem.wf = true) :
    (cmReply i q s).txb.mem.wf = true := by
  unfold cmReply; dsimp only; split
  · exact rbAppend_wf h q
  · exact h

theorem scanFrom_wf (es : List QueryTableEntry) (i : Nat) (c : Bool) {s : State}
    (h : s.txb.mem.wf = true) : (scanFrom i c s es).state.txb.mem.wf = true := by
  induction es generalizing i c with
  | nil => exact h
  | cons e rest ih =>
    unfold scanFrom
    split
    · exact ih _ _
    · split
      · exact cmReply_wf _ _ h
      · exact ih _ _

/-- The matcher keeps the canonical form of TXB's storage and does not write RXB's. -/
theorem cmGate_wf {s : State} (h : s.txb.mem.wf = true) :
    (cmGate s).txb.mem.wf = true ∧ (cmGate s).rxb.mem = s.rxb.mem := by
  unfold cmGate
  split
  · dsimp only
    refine ⟨?_, ?_⟩
    · rw [(cmClear_frame _ _ _).2]; exact scanFrom_wf _ _ _ h
    · have hs : (cmScan s).state.rxb = s.rxb := (scanFrom_frame s.table 0 false s).2.1
      unfold cmClear
      split
      · exact congrArg RingBuf.mem hs
      · unfold clearFor; dsimp only
        split <;> simpa using congrArg RingBuf.mem hs
  · exact ⟨h, rfl⟩

end Sys2Proof.Machine
end

