-- ==== Sys2Proof/Laws/PerInstr.lean ====
section
/-! SUPPORT. The families of statements made per constructor of `Instr`. -/

namespace Sys2Proof.Laws

open Sys2Proof

/-- The bytes of an encoding have the length of its space: one for a dispatch word (R68), two for a frame
(R60). -/
def EncodingLength.Statement (i : Instr) : Prop :=
  ∀ sp bs, encode i = some (sp, bs) → bs.length = if sp = .wire then 2 else 1

theorem EncodingLength.rbCount (b : Buf) : EncodingLength.Statement (.rbCount b) := by
  intro sp bs h; simp [encode] at h

theorem EncodingLength.rbFree (b : Buf) : EncodingLength.Statement (.rbFree b) := by
  intro sp bs h; simp [encode] at h

theorem EncodingLength.rbPeek (b : Buf) (j : Slot) : EncodingLength.Statement (.rbPeek b j) := by
  intro sp bs h; simp [encode] at h

theorem EncodingLength.rbCommit (b : Buf) : EncodingLength.Statement (.rbCommit b) := by
  intro sp bs h; simp [encode] at h

theorem EncodingLength.rbAppend (b : Buf) (seq : ByteSeq) : EncodingLength.Statement (.rbAppend b seq) := by
  intro sp bs h; simp [encode] at h

theorem EncodingLength.rbAdv (b : Buf) : EncodingLength.Statement (.rbAdv b) := by
  intro sp bs h; simp [encode] at h

theorem EncodingLength.rbClear (b : Buf) : EncodingLength.Statement (.rbClear b) := by
  intro sp bs h; simp [encode] at h

theorem EncodingLength.rxWait : EncodingLength.Statement .rxWait := by
  intro sp bs h; simp only [encode, Option.some.injEq, Prod.mk.injEq] at h; obtain ⟨rfl, rfl⟩ := h; rfl

theorem EncodingLength.rxIdle : EncodingLength.Statement .rxIdle := by
  intro sp bs h; simp only [encode, Option.some.injEq, Prod.mk.injEq] at h; obtain ⟨rfl, rfl⟩ := h; rfl

theorem EncodingLength.rxStart : EncodingLength.Statement .rxStart := by
  intro sp bs h; simp only [encode, Option.some.injEq, Prod.mk.injEq] at h; obtain ⟨rfl, rfl⟩ := h; rfl

theorem EncodingLength.rxData : EncodingLength.Statement .rxData := by
  intro sp bs h; simp only [encode, Option.some.injEq, Prod.mk.injEq] at h; obtain ⟨rfl, rfl⟩ := h; rfl

theorem EncodingLength.rxParity : EncodingLength.Statement .rxParity := by
  intro sp bs h; simp only [encode, Option.some.injEq, Prod.mk.injEq] at h; obtain ⟨rfl, rfl⟩ := h; rfl

theorem EncodingLength.rxStop : EncodingLength.Statement .rxStop := by
  intro sp bs h; simp only [encode, Option.some.injEq, Prod.mk.injEq] at h; obtain ⟨rfl, rfl⟩ := h; rfl

theorem EncodingLength.rxLatch (x : Level) : EncodingLength.Statement (.rxLatch x) := by
  intro sp bs h; simp [encode] at h

theorem EncodingLength.txDrive : EncodingLength.Statement .txDrive := by
  intro sp bs h; simp [encode] at h

theorem EncodingLength.txWait : EncodingLength.Statement .txWait := by
  intro sp bs h; simp only [encode, Option.some.injEq, Prod.mk.injEq] at h; obtain ⟨rfl, rfl⟩ := h; rfl

theorem EncodingLength.txIdle : EncodingLength.Statement .txIdle := by
  intro sp bs h; simp only [encode, Option.some.injEq, Prod.mk.injEq] at h; obtain ⟨rfl, rfl⟩ := h; rfl

theorem EncodingLength.txStart : EncodingLength.Statement .txStart := by
  intro sp bs h; simp only [encode, Option.some.injEq, Prod.mk.injEq] at h; obtain ⟨rfl, rfl⟩ := h; rfl

theorem EncodingLength.txData : EncodingLength.Statement .txData := by
  intro sp bs h; simp only [encode, Option.some.injEq, Prod.mk.injEq] at h; obtain ⟨rfl, rfl⟩ := h; rfl

theorem EncodingLength.txParity : EncodingLength.Statement .txParity := by
  intro sp bs h; simp only [encode, Option.some.injEq, Prod.mk.injEq] at h; obtain ⟨rfl, rfl⟩ := h; rfl

theorem EncodingLength.txStop : EncodingLength.Statement .txStop := by
  intro sp bs h; simp only [encode, Option.some.injEq, Prod.mk.injEq] at h; obtain ⟨rfl, rfl⟩ := h; rfl

theorem EncodingLength.cmGate : EncodingLength.Statement .cmGate := by
  intro sp bs h; simp [encode] at h

theorem EncodingLength.cmScan : EncodingLength.Statement .cmScan := by
  intro sp bs h; simp [encode] at h

theorem EncodingLength.cmCmp (i : Nat) : EncodingLength.Statement (.cmCmp i) := by
  intro sp bs h; simp [encode] at h

theorem EncodingLength.cmReply (i : Nat) : EncodingLength.Statement (.cmReply i) := by
  intro sp bs h; simp [encode] at h

theorem EncodingLength.cmClear (matched couldMatch : Bool) : EncodingLength.Statement (.cmClear matched couldMatch) := by
  intro sp bs h; simp [encode] at h

theorem EncodingLength.toArm : EncodingLength.Statement .toArm := by
  intro sp bs h; simp [encode] at h

theorem EncodingLength.toTick : EncodingLength.Statement .toTick := by
  intro sp bs h; simp [encode] at h

theorem EncodingLength.tick (x : Level) : EncodingLength.Statement (.tick x) := by
  intro sp bs h; simp [encode] at h

theorem EncodingLength.reset : EncodingLength.Statement .reset := by
  intro sp bs h; simp [encode] at h

theorem EncodingLength.frame (b : Byte) (p : Level) : EncodingLength.Statement (.frame b p) := by
  intro sp bs h; simp only [encode, Option.some.injEq, Prod.mk.injEq] at h; obtain ⟨rfl, rfl⟩ := h; rfl

theorem EncodingLength.entryKnown : EncodingLength.Statement .entryKnown := by
  intro sp bs h; simp [encode] at h

end Sys2Proof.Laws
end

