-- ==== Sys2Proof/Laws/Step.lean ====
section
/-! SUPPORT. What a step can do, said once: a tick, a reset, or the expansion of a frame; it never faults and is
never refused. -/

namespace Sys2Proof.Machine

open Sys2Proof

/-! The arms of `exec`, one equation each. -/

@[simp] theorem exec_rbCount (b : Buf) (s : State) : exec (.rbCount b) s = execRbCount b s := rfl
@[simp] theorem exec_rbFree (b : Buf) (s : State) : exec (.rbFree b) s = execRbFree b s := rfl
@[simp] theorem exec_rbPeek (b : Buf) (j : Slot) (s : State) : exec (.rbPeek b j) s = execRbPeek b j s := rfl
@[simp] theorem exec_rbCommit (b : Buf) (s : State) : exec (.rbCommit b) s = execRbCommit b s := rfl
@[simp] theorem exec_rbAppend (b : Buf) (seq : ByteSeq) (s : State) : exec (.rbAppend b seq) s = execRbAppend b seq s := rfl
@[simp] theorem exec_rbAdv (b : Buf) (s : State) : exec (.rbAdv b) s = execRbAdv b s := rfl
@[simp] theorem exec_rbClear (b : Buf) (s : State) : exec (.rbClear b) s = execRbClear b s := rfl
@[simp] theorem exec_rxWait (s : State) : exec .rxWait s = execRxWait s := rfl
@[simp] theorem exec_rxIdle (s : State) : exec .rxIdle s = execRxIdle s := rfl
@[simp] theorem exec_rxStart (s : State) : exec .rxStart s = execRxStart s := rfl
@[simp] theorem exec_rxData (s : State) : exec .rxData s = execRxData s := rfl
@[simp] theorem exec_rxParity (s : State) : exec .rxParity s = execRxParity s := rfl
@[simp] theorem exec_rxStop (s : State) : exec .rxStop s = execRxStop s := rfl
@[simp] theorem exec_rxLatch (x : Level) (s : State) : exec (.rxLatch x) s = execRxLatch x s := rfl
@[simp] theorem exec_txDrive (s : State) : exec .txDrive s = execTxDrive s := rfl
@[simp] theorem exec_txWait (s : State) : exec .txWait s = execTxWait s := rfl
@[simp] theorem exec_txIdle (s : State) : exec .txIdle s = execTxIdle s := rfl
@[simp] theorem exec_txStart (s : State) : exec .txStart s = execTxStart s := rfl
@[simp] theorem exec_txData (s : State) : exec .txData s = execTxData s := rfl
@[simp] theorem exec_txParity (s : State) : exec .txParity s = execTxParity s := rfl
@[simp] theorem exec_txStop (s : State) : exec .txStop s = execTxStop s := rfl
@[simp] theorem exec_cmGate (s : State) : exec .cmGate s = execCmGate s := rfl
@[simp] theorem exec_cmScan (s : State) : exec .cmScan s = execCmScan s := rfl
@[simp] theorem exec_cmCmp (i : Nat) (s : State) : exec (.cmCmp i) s = execCmCmp i s := rfl
@[simp] theorem exec_cmReply (i : Nat) (s : State) : exec (.cmReply i) s = execCmReply i s := rfl
@[simp] theorem exec_cmClear (matched couldMatch : Bool) (s : State) : exec (.cmClear matched couldMatch) s = execCmClear matched couldMatch s := rfl
@[simp] theorem exec_toArm (s : State) : exec .toArm s = execToArm s := rfl
@[simp] theorem exec_toTick (s : State) : exec .toTick s = execToTick s := rfl
@[simp] theorem exec_tick (x : Level) (s : State) : exec (.tick x) s = execTick x s := rfl
@[simp] theorem exec_reset (s : State) : exec .reset s = execReset s := rfl
@[simp] theorem exec_frame (b : Byte) (p : Level) (s : State) : exec (.frame b p) s = execFrame b p s := rfl
@[simp] theorem exec_entryKnown (s : State) : exec .entryKnown s = execEntryKnown s := rfl

/-- TICK of an active core (R150). -/
theorem execTick_active {s : State} (h : s.active = true) (x : Level) :
    execTick x s = .next (tickSubSteps x s) := by
  unfold execTick; rw [if_pos h]

/-- TICK of a core that is not active (R153). -/
theorem execTick_inactive {s : State} (h : s.active = false) (x : Level) :
    execTick x s = .next (beginTick x s) := by
  unfold execTick; rw [if_neg (by simp [h])]

/-- What TICK can do (R150, R153). -/
theorem execTick_cases {s t : State} {x : Level} (h : exec (.tick x) s = .next t) :
    (s.active = true ∧ t = tickSubSteps x s) ∨ (s.active = false ∧ t = beginTick x s) := by
  replace h : execTick x s = .next t := h
  cases ha : s.active with
  | true => rw [execTick_active ha] at h; injection h with h; exact .inl ⟨rfl, h.symm⟩
  | false => rw [execTick_inactive ha] at h; injection h with h; exact .inr ⟨rfl, h.symm⟩

/-- What a step can do: the stimulus at the head of the queue decides; with none, the line holds its level. -/
theorem step_cases (s : State) :
    (s.inputs = [] ∧ step s = execTick s.rxIn s) ∨
    (∃ x rest, s.inputs = .level x :: rest ∧ step s = execTick x { s with inputs := rest }) ∨
    (∃ b p rest, s.inputs = .frame b p :: rest ∧
      step s = .next { s with inputs := frameStimuli b p ++ rest }) ∨
    (∃ rest, s.inputs = .reset :: rest ∧ step s = .next (resetCore { s with inputs := rest })) := by
  unfold step fetch
  cases hs : s.inputs with
  | nil => exact .inl ⟨rfl, rfl⟩
  | cons c rest =>
    cases c with
    | level x => exact .inr (.inl ⟨x, rest, rfl, rfl⟩)
    | frame b p => exact .inr (.inr (.inl ⟨b, p, rest, rfl, rfl⟩))
    | reset => exact .inr (.inr (.inr ⟨rest, rfl, rfl⟩))

/-- The whole of TICK keeps the ports it does not sample, the table, the queue and the last returned value. -/
theorem tickSubSteps_frame (x : Level) (s : State) :
    (tickSubSteps x s).rxLast = x ∧ (tickSubSteps x s).rxIn = x ∧ (tickSubSteps x s).txPin = s.txLevel ∧
      (tickSubSteps x s).enable = s.enable ∧ (tickSubSteps x s).active = s.active ∧
      (tickSubSteps x s).table = s.table ∧ (tickSubSteps x s).inputs = s.inputs ∧
      (tickSubSteps x s).ret = s.ret := by
  unfold tickSubSteps
  dsimp only
  have hr := rxDispatch_frame (toTick (txDrive (beginTick x s)))
  have ht := txDispatch_frame (rxLatch x (rxDispatch (toTick (txDrive (beginTick x s)))))
  have hc := cmGate_frame (txDispatch (rxLatch x (rxDispatch (toTick (txDrive (beginTick x s))))))
  unfold rxFrame at hr
  unfold txFrame at ht
  unfold cmFrame at hc
  simp_all

/-- The whole of TICK keeps the canonical form of both storages. -/
theorem tickSubSteps_wf (x : Level) {s : State} (hr : s.rxb.mem.wf = true) (ht : s.txb.mem.wf = true) :
    (tickSubSteps x s).rxb.mem.wf = true ∧ (tickSubSteps x s).txb.mem.wf = true := by
  unfold tickSubSteps
  dsimp only
  have h4 := rxDispatch_wf (s := toTick (txDrive (beginTick x s))) hr
  have hf := rxDispatch_frame (toTick (txDrive (beginTick x s)))
  have hft := txDispatch_frame (rxLatch x (rxDispatch (toTick (txDrive (beginTick x s)))))
  have h6 := txDispatch_txb_mem (rxLatch x (rxDispatch (toTick (txDrive (beginTick x s)))))
  unfold rxFrame at hf
  unfold txFrame at hft
  have hT : (txDispatch (rxLatch x (rxDispatch (toTick (txDrive (beginTick x s)))))).txb.mem.wf = true := by
    rw [h6]; simp [hf, ht]
  obtain ⟨h7, h8⟩ := cmGate_wf hT
  refine ⟨?_, h7⟩
  rw [h8]
  simpa [hft] using h4

/-- The memories after reset have the canonical form. -/
theorem reset_memories_wf : State.reset.rxb.mem.wf = true ∧ State.reset.txb.mem.wf = true := ⟨rfl, rfl⟩

end Sys2Proof.Machine
end

