-- ==== Sys2Proof/Laws/TickSource.lean ====
section
/-! SUPPORT. What the tick source and a turn of the busy-wait can do, said once. -/

namespace Sys2Proof.Machine

open Sys2Proof

@[simp] theorem tickArrives_tickFlag (l : FlaggedCore) : (tickArrives l).tickFlag = true := rfl
@[simp] theorem tickArrives_core (l : FlaggedCore) : (tickArrives l).core = l.core := rfl

/-- A set flag absorbs a tick (R193). -/
@[simp] theorem tickArrives_tickArrives (l : FlaggedCore) : tickArrives (tickArrives l) = tickArrives l := rfl

/-- Where a tick is next, the step is one TICK, with the level at the head of the queue or the level held. -/
theorem step_of_awaitsTick {s : State} (h : awaitsTick s = true) :
    ∃ x rest, step s = execTick x { s with inputs := rest } := by
  rcases step_cases s with ⟨hi, hs⟩ | ⟨x, rest, _, hs⟩ | ⟨b, p, rest, hi, _⟩ | ⟨rest, hi, _⟩
  · exact ⟨s.rxIn, [], by rw [hs, ← hi]⟩
  · exact ⟨x, rest, hs⟩
  · simp [awaitsTick, hi] at h
  · simp [awaitsTick, hi] at h

/-- A step of the core that answers a next state answers it beside the flag. -/
theorem stepWithFlag_next {s t : State} (flag : Bool) (h : step s = .next t) :
    stepWithFlag flag s = .next { tickFlag := flag, core := t } := by
  unfold stepWithFlag; rw [h]

/-- What a turn can do: wait, take a TICK and clear the flag, or take what is no tick and leave the flag. -/
theorem loopTurn_cases (l : FlaggedCore) :
    (awaitsTick l.core = true ∧ l.tickFlag = false ∧ loopTurn l = .next l) ∨
    (awaitsTick l.core = true ∧ l.tickFlag = true ∧ loopTurn l = stepWithFlag false l.core) ∨
    (awaitsTick l.core = false ∧ loopTurn l = stepWithFlag l.tickFlag l.core) := by
  unfold loopTurn
  cases ha : awaitsTick l.core <;> cases hf : l.tickFlag <;> simp

end Sys2Proof.Machine
end

