-- ==== Sys2Proof/Tests/Slice0.lean ====
section
/-! SUPPORT. The model's own tests, by hand from spec/95_test_vectors.md (V-OP-1, V-PAR-1, V-ENC-1) and
spec/30_encoding.md R60, R68; then, for every statement with hypotheses, a state and operands that meet them. -/

namespace Sys2Proof.Tests

open Sys2Proof Sys2Proof.Machine

/-- Something of the next state, `none` where the answer is no next state. -/
def after {α : Type} (f : State → α) : Answer → Option α
  | .next t => some (f t)
  | .fault _ => none
  | .refused _ => none

/-- The refusal an answer is, if it is one. -/
def refusalOf : Answer → Option Refusal
  | .next _ => none
  | .fault _ => none
  | .refused r => some r

/-- A ring buffer with the memory and the indices given. -/
def ring (mem : Memory) (rd wr : Slot) : RingBuf := { mem := mem, wr := wr, rd := rd }

/-- A quiescent state with the line high and the one known entry as table (T1 of 95_test_vectors.md). -/
def idle : State := { State.reset with rxLast := high, table := [knownEntry] }

/-- `idle` with `RXB = [0x51]` and a timeout running. -/
def partialCommand : State := { idle with rxb := ring [(0, 0x51)] 0 1, rxTimeout := 436 }

/-- `idle` with `RXB = [0x51, 0x0D]`. -/
def wholeCommand : State := { idle with rxb := ring [(0, 0x51), (1, 0x0D)] 0 2, rxTimeout := 397 }

/-- `idle` with `TXB = [0x51, 0x32, 0x0D]`. -/
def replyPending : State := { idle with txb := ring [(0, 0x51), (1, 0x32), (2, 0x0D)] 0 3 }

/-- `replyPending` with a byte in RXB and the transmitter's wait in its last tick. -/
def replyBehindByte : State := { replyPending with rxb := ring [(0, 0x51)] 0 1, rxTimeout := 436, txWait := 1 }

/-! ## WellFormed: each check refuses an ill-formed term -/

theorem test_wf_append_refuses_empty : (Instr.rbAppend .txb []).wf = false := by decide

theorem test_wf_append_refuses_six_bytes : (Instr.rbAppend .txb [1, 2, 3, 4, 5, 6]).wf = false := by decide

theorem test_wf_entry_refuses_empty_query :
    ({ query := [], reply := [1] } : QueryTableEntry).wf = false := by decide

theorem test_wf_entry_refuses_long_reply :
    ({ query := [1], reply := [1, 2, 3, 4, 5, 6] } : QueryTableEntry).wf = false := by decide

theorem test_wf_table_refuses_ill_formed_entry :
    tableWf [knownEntry, { query := [1], reply := [] }] = false := by decide

theorem test_wf_memory_refuses_listed_zero : Memory.wf [(3, 0)] = false := by decide

theorem test_wf_memory_refuses_falling_slots : Memory.wf [(3, 1), (2, 1)] = false := by decide

theorem test_wf_memory_refuses_slot_sixteen : Memory.wf [(16, 1)] = false := by decide

/-! ## Decoding: words written from R68 and R60 -/

theorem test_decode_rx_wait : decode .receiver [0b00000110] = .ok .rxWait := by decide
theorem test_decode_rx_idle : decode .receiver [0b00001000] = .ok .rxIdle := by decide
theorem test_decode_rx_start : decode .receiver [0b00001001] = .ok .rxStart := by decide
theorem test_decode_rx_data : decode .receiver [0b00001010] = .ok .rxData := by decide
theorem test_decode_rx_parity : decode .receiver [0b00001011] = .ok .rxParity := by decide
theorem test_decode_rx_stop : decode .receiver [0b00001100] = .ok .rxStop := by decide
theorem test_decode_tx_wait : decode .transmitter [0b00000011] = .ok .txWait := by decide
theorem test_decode_tx_idle : decode .transmitter [0b00001000] = .ok .txIdle := by decide
theorem test_decode_tx_start : decode .transmitter [0b00001001] = .ok .txStart := by decide
theorem test_decode_tx_data : decode .transmitter [0b00001010] = .ok .txData := by decide
theorem test_decode_tx_parity : decode .transmitter [0b00001011] = .ok .txParity := by decide
theorem test_decode_tx_stop : decode .transmitter [0b00001100] = .ok .txStop := by decide

/-- R69 (a): a reserved phase code is treated as IDLE. -/
theorem test_decode_reserved_is_idle : decode .receiver [0b00001111] = .ok .rxIdle := by decide

/-- The frame of 0x0D, wire order `0 1 0 1 1 0 0 0 0 1 1`, bit period 0 in bit 0. -/
theorem test_decode_frame : decode .wire [0b00011010, 0b00000110] = .ok (.frame 0x0D high) := by decide

theorem test_decode_refuses_start_high : decode .wire [0b10100011, 0b00000110] = .error .startHigh := by decide
theorem test_decode_refuses_stop_low : decode .wire [0b10100010, 0b00000010] = .error .stopLow := by decide
theorem test_decode_refuses_twelve_periods :
    decode .wire [0b10100010, 0b00001110] = .error .frameTooWide := by decide
theorem test_decode_refuses_one_byte_frame : decode .wire [0b10100010] = .error .frameLength := by decide
theorem test_decode_refuses_wide_word : decode .receiver [0b00011000] = .error .dispatchTooWide := by decide
theorem test_decode_refuses_two_words : decode .transmitter [8, 8] = .error .dispatchLength := by decide

theorem test_table_word_frame : decodeTableWord 16 0x400 = some (.frame 0x00 low) := by decide
theorem test_table_word_dispatch : decodeTableWord 8 0xA = some .rxData := by decide

/-- The word of RX.START stored where the next step fetches runs RX.START: with the line high, a glitch. -/
theorem test_fetch_word_runs_start :
    after (fun t => (t.rxPhase, t.events)) (step (State.reset.withFetchWord 8 9)) =
      some (.idle, [.glitch]) := by decide

theorem test_fetch_word_runs_frame :
    after (fun t => t.inputs.length) (step (State.reset.withFetchWord 16 0x400)) = some 44 := by decide

/-! ## V-PAR-1 and V-ENC-1 -/

theorem test_parity : [0x00, 0x80, 0x03, 0x51, 0x7F, 0xFE, 0xFF].map evenParity =
    [false, true, false, true, true, true, false] := by decide

/-- `FRAME(0x32)`: `0000 0000 1111 0000 0000 1111 1111 0000 0000 1111 1111`. -/
theorem test_frame_levels : stimFrame 0x32 high high 4 =
    stimL 8 ++ stimH 4 ++ stimL 8 ++ stimH 8 ++ stimL 8 ++ stimH 8 := by decide

/-- `FRAME(0x51, stop=0)` and `FRAME(0x51, stopq=1)`. -/
theorem test_frame_variants :
    (stimFrame 0x51 high low 4).drop 36 = stimH 4 ++ stimL 4 ∧ (stimFrame 0x51 high high 1).length = 41 := by
  decide

/-! ## V-OP-1: single operations -/

theorem test_count_wraps :
    after State.ret (exec (.rbCount .rxb) { idle with rxb := ring [] 14 3 }) = some (.number 5) := by decide

theorem test_free_of_full :
    after State.ret (exec (.rbFree .txb) { idle with txb := ring [] 0 15 }) = some (.number 0) := by decide

theorem test_free_of_empty : after State.ret (exec (.rbFree .rxb) idle) = some (.number 15) := by decide

theorem test_peek_wraps :
    after State.ret (exec (.rbPeek .rxb 3) { idle with rxb := ring [(1, 0x77)] 14 3 }) =
      some (.byte 0x77) := by decide

theorem test_peek_refuses :
    refusalOf (exec (.rbPeek .rxb 1) partialCommand) = some .peekBeyondContent := by decide

theorem test_commit_rejects :
    after (fun t => (t.rxb, t.ret)) (exec (.rbCommit .rxb) { idle with rxb := ring [] 0 15 }) =
      some (ring [] 0 15, .accepted false) := by decide

theorem test_commit_wraps :
    after (fun t => (t.rxb, t.ret)) (exec (.rbCommit .rxb) { idle with rxb := ring [] 3 15 }) =
      some (ring [] 3 0, .accepted true) := by decide

theorem test_append_wraps :
    after (fun t => (t.txb, t.ret)) (exec (.rbAppend .txb [0x21, 0x22, 0x23]) { idle with txb := ring [] 3 15 }) =
      some (ring [(0, 0x22), (1, 0x23), (15, 0x21)] 3 2, .accepted true) := by decide

theorem test_append_rejects :
    after (fun t => (t.txb, t.ret)) (exec (.rbAppend .txb [1, 2, 3, 4]) { idle with txb := ring [] 3 15 }) =
      some (ring [] 3 15, .accepted false) := by decide

theorem test_adv_wraps :
    after State.txb (exec (.rbAdv .txb) { idle with txb := ring [] 15 2 }) = some (ring [] 0 2) := by decide

theorem test_adv_refuses : refusalOf (exec (.rbAdv .txb) idle) = some .advOnEmpty := by decide

theorem test_clear_keeps_storage :
    after State.txb (exec (.rbClear .txb) { idle with txb := ring [(0, 0x22)] 3 3 }) =
      some (ring [(0, 0x22)] 0 0) := by decide

theorem test_rx_dispatch_at_one :
    (rxDispatch { idle with rxPhase := .start, rxWait := 1, rxIn := high }).events = [.glitch] := by decide

theorem test_rx_wait :
    (rxDispatch { idle with rxPhase := .data, rxWait := 4 }).rxWait = 3 ∧
      after State.rxPhase (exec .rxWait { idle with rxPhase := .data, rxWait := 3 }) = some .data := by decide

theorem test_rx_latch : after State.rxLast (exec (.rxLatch low) idle) = some low := by decide

theorem test_rx_idle_edge :
    after (fun t => (t.rxPhase, t.rxWait)) (exec .rxIdle { idle with rxIn := low }) = some (.start, 1) := by
  decide

theorem test_rx_idle_no_edge :
    after (fun t => (t.rxPhase, t.rxWait)) (exec .rxIdle { idle with rxLast := low, rxIn := low }) =
      some (.idle, 0) := by decide

theorem test_rx_start_commits :
    after (fun t => (t.rxPhase, t.rxParity, t.rxBit, t.rxb, t.rxTimeout, t.rxWait))
      (exec .rxStart { idle with
        rxIn := low, rxPhase := .start, rxb := ring [(1, 0x9C)] 0 1, rxBit := 0x00, rxParity := high }) =
      some (.data, low, 0x01, ring [] 0 1, 480, 4) := by decide

theorem test_rx_start_keeps_running_timeout :
    after State.rxTimeout (exec .rxStart { partialCommand with rxIn := low, rxPhase := .start }) =
      some 436 := by decide

theorem test_rx_data_sets_bit :
    after (fun t => (t.rxb, t.rxParity, t.rxBit, t.rxWait, t.rxPhase))
      (exec .rxData { idle with
        rxIn := high, rxPhase := .data, rxb := ring [(0, 0x01)] 0 0, rxBit := 0x10, rxParity := high }) =
      some (ring [(0, 0x11)] 0 0, low, 0x20, 4, .data) := by decide

theorem test_rx_data_ends_byte :
    after (fun t => (t.rxb, t.rxBit, t.rxPhase, t.rxWait, t.events))
      (exec .rxData { idle with rxIn := low, rxPhase := .data, rxb := ring [(0, 0x51)] 0 0, rxBit := 0x80 }) =
      some (ring [(0, 0x51)] 0 1, 0x00, .parity, 4, [.rxByte 0x51]) := by decide

theorem test_rx_parity_mismatch :
    after (fun t => (t.rxPhase, t.rxWait, t.events))
      (exec .rxParity { idle with rxIn := low, rxParity := high, rxPhase := .parity }) =
      some (.stop, 4, [.parity]) := by decide

theorem test_rx_parity_match :
    after (fun t => (t.rxPhase, t.events))
      (exec .rxParity { idle with rxIn := high, rxParity := high, rxPhase := .parity }) = some (.stop, []) := by
  decide

theorem test_rx_stop_low :
    after (fun t => (t.rxPhase, t.rxWait, t.events))
      (exec .rxStop { idle with rxIn := low, rxPhase := .stop }) = some (.idle, 0, [.stop]) := by decide

theorem test_rx_stop_high :
    after (fun t => (t.rxPhase, t.events)) (exec .rxStop { idle with rxPhase := .stop }) = some (.idle, []) := by
  decide

theorem test_tx_drive : after State.txPin (exec .txDrive { idle with txLevel := low }) = some low := by decide

theorem test_tx_wait : (txDispatch { idle with txPhase := .data, txWait := 2 }).txWait = 1 := by decide

theorem test_tx_idle_starts :
    after (fun t => (t.txPhase, t.txWait)) (exec .txIdle replyPending) = some (.start, 1) := by decide

theorem test_tx_idle_reclaims :
    after (fun t => (t.txPhase, t.txb)) (exec .txIdle { idle with txb := ring [] 3 3 }) =
      some (.idle, ring [] 0 0) := by decide

theorem test_tx_start :
    after (fun t => (t.txLevel, t.txBit, t.txParity, t.txPhase, t.txWait))
      (exec .txStart { idle with txBit := 0x00, txParity := high }) = some (low, 0x01, low, .data, 4) := by decide

theorem test_tx_data_high_bit :
    after (fun t => (t.txLevel, t.txParity, t.txBit, t.txWait))
      (exec .txData { idle with txb := ring [(0, 0x32)] 0 1, txBit := 0x02 }) =
      some (high, high, 0x04, 4) := by decide

theorem test_tx_data_ends_byte :
    after (fun t => (t.txLevel, t.txBit, t.txb.rd, t.txPhase, t.events))
      (exec .txData { idle with txb := ring [(0, 0x32)] 0 1, txBit := 0x80, txParity := high }) =
      some (low, 0x00, 1, .parity, [.txByte 0x32]) := by decide

theorem test_tx_parity :
    after (fun t => (t.txLevel, t.txPhase, t.txWait)) (exec .txParity { idle with txLevel := low, txParity := high }) =
      some (high, .stop, 4) := by decide

theorem test_tx_stop :
    after (fun t => (t.txLevel, t.txPhase, t.txWait)) (exec .txStop { idle with txLevel := low }) =
      some (high, .idle, 4) := by decide

theorem test_gate_closed_in_start :
    after (fun t => (t.rxb, t.events)) (exec .cmGate { wholeCommand with rxPhase := .start }) =
      some (ring [(0, 0x51), (1, 0x0D)] 0 2, []) := by decide

theorem test_gate_answers :
    after (fun t => (t.txb.content, t.rxb.content, t.events)) (exec .cmGate wholeCommand) =
      some ([0x51, 0x32, 0x0D], [], [.matched 0, .clear .matched]) := by decide

theorem test_scan_could_match : after State.ret (exec .cmScan partialCommand) = some (.scan false true) := by
  decide

/-- T2: of two identical queries the first is answered. -/
theorem test_scan_first_wins :
    after (fun t => (t.ret, t.events, t.txb.content))
      (exec .cmScan { wholeCommand with
        table := [{ query := [0x51, 0x0D], reply := [0x11] }, { query := [0x51, 0x0D], reply := [0x22] }] }) =
      some (.scan true false, [.matched 0], [0x11]) := by decide

theorem test_cmp_differs :
    after State.ret (exec (.cmCmp 0) { idle with rxb := ring [(0, 0x51), (1, 0x0E)] 0 2 }) =
      some (.equal false) := by decide

theorem test_cmp_equal : after State.ret (exec (.cmCmp 0) wholeCommand) = some (.equal true) := by decide

theorem test_reply_dropped_whole :
    after (fun t => (t.txb, t.events)) (exec (.cmReply 0) { idle with txb := ring [] 0 13 }) =
      some (ring [] 0 13, [.txOverflow 0]) := by decide

theorem test_clear_keeps :
    after (fun t => (t.rxb.wr, t.rxTimeout, t.events)) (exec (.cmClear false true) { partialCommand with rxTimeout := 7 }) =
      some (1, 7, []) := by decide

theorem test_clear_for_timeout :
    after (fun t => (t.rxb.wr, t.events)) (exec (.cmClear false true) { partialCommand with rxTimeout := 0 }) =
      some (0, [.timeout, .clear .timeout]) := by decide

theorem test_arm_leaves_running : after State.rxTimeout (exec .toArm { idle with rxTimeout := 1 }) = some 1 := by
  decide

theorem test_timeout_stops_at_zero : after State.rxTimeout (exec .toTick idle) = some 0 := by decide

/-- The first tick after reset changes only `rx_last` (R150). -/
theorem test_first_tick : after id (exec (.tick high) State.reset) = some { State.reset with rxLast := high } := by
  decide

/-- The pin lags the decided level by one tick (R111). -/
theorem test_tick_lags :
    after (fun t => (t.txPin, t.txLevel)) (exec (.tick high) { replyPending with txPhase := .start, txWait := 1 }) =
      some (high, low) := by decide

theorem test_reset :
    after (fun t => (t.rxBit, t.txPin, t.rxb, t.active)) (exec .reset { partialCommand with txPin := low, enable := false }) =
      some (0x01, high, ring [(0, 0x51)] 0 0, false) := by decide

theorem test_entry_known : after State.table (exec .entryKnown State.reset) = some [knownEntry] := by decide

theorem test_event_codes :
    [Event.glitch, .parity, .stop, .timeout, .rxOverflow, .txOverflow 0, .rxByte 0, .txByte 0, .matched 0,
      .clear .matched].map Event.code = [1, 2, 3, 4, 5, 6, 16, 17, 18, 19] := by decide

/-- The flag and the number of queued stimuli after a turn of the busy-wait. -/
def afterTurn : Host.Outcome FlaggedCore Fault Refusal → Option (Bool × Nat)
  | .next l => some (l.tickFlag, l.core.inputs.length)
  | .fault _ => none
  | .refused _ => none

/-- R51: with the flag clear the loop waits; with the flag set it takes one level. -/
theorem test_turn_waits_then_steps :
    afterTurn (loopTurn { tickFlag := false, core := { idle with inputs := [.level low, .level low] } }) =
      some (false, 2) ∧
    afterTurn (loopTurn { tickFlag := true, core := { idle with inputs := [.level low, .level low] } }) =
      some (false, 1) := by decide

/-- R152: a reset spends no tick (log 26). -/
theorem test_turn_reset_spends_no_tick :
    afterTurn (loopTurn { tickFlag := true, core := { idle with inputs := [.reset, .level low] } }) =
      some (true, 1) := by decide

/-- A turn of an inactive core consumes a pending tick (log 27). -/
theorem test_turn_of_inactive_core :
    afterTurn (loopTurn { tickFlag := true, core := { idle with active := false, inputs := [.level low] } }) =
      some (false, 0) := by decide

/-! ## Witnesses: the hypotheses of each statement are met -/

theorem idle_inv : Inv idle := by constructor <;> decide

theorem partialCommand_inv : Inv partialCommand := by constructor <;> decide

theorem replyPending_inv : Inv replyPending := by constructor <;> decide

theorem replyBehindByte_inv : Inv replyBehindByte := by constructor <;> decide

theorem witness_DecodeOfEncodeIsTheInstruction :
    (Instr.frame 0xFF low).wf = true ∧ encode (.frame 0xFF low) = some (.wire, [0xFE, 0x05]) := by decide

theorem witness_EncodeOfDecodedFrameIsTheFrame : decode .wire [0xFE, 0x05] = .ok (.frame 0xFF low) := by decide

theorem witness_StepRunsTheFetchedOperation :
    idle.inputs = [] ∧
    (∃ x rest, ({ idle with inputs := [.level low, .reset] } : State).inputs = .level x :: rest) ∧
    (∃ b p rest, ({ idle with inputs := [.frame 0x51 high] } : State).inputs = .frame b p :: rest) ∧
    (∃ rest, ({ idle with inputs := [.reset] } : State).inputs = .reset :: rest) :=
  ⟨rfl, ⟨low, _, rfl⟩, ⟨0x51, high, _, rfl⟩, ⟨_, rfl⟩⟩

theorem witness_TickIsItsSubStepsInOrder : partialCommand.active = true := by decide

theorem witness_InactiveCoreTakesNoStep : ({ idle with active := false } : State).active = false := by decide

theorem witness_ReceiverDispatchWaitsThenActs :
    2 ≤ ({ idle with rxPhase := .data, rxWait := 2 } : State).rxWait.toNat ∧
    2 ≤ ({ idle with rxPhase := .data, rxWait := 7 } : State).rxWait.toNat ∧
    ({ idle with rxPhase := .start, rxWait := 1 } : State).rxWait.toNat ≤ 1 ∧ idle.rxWait.toNat ≤ 1 := by decide

theorem witness_TransmitterDispatchWaitsThenActs :
    2 ≤ ({ idle with txPhase := .data, txWait := 2 } : State).txWait.toNat ∧
    2 ≤ ({ idle with txPhase := .data, txWait := 7 } : State).txWait.toNat ∧
    ({ idle with txPhase := .start, txWait := 1 } : State).txWait.toNat ≤ 1 ∧ idle.txWait.toNat ≤ 1 := by decide

theorem witness_TickLagsThePinAndLatchesTheSample :
    replyPending.active = true ∧ ∃ t, exec (.tick low) replyPending = .next t := ⟨rfl, _, rfl⟩

theorem witness_SecondTickIsAbsorbed :
    (FlaggedCore.mk false { idle with inputs := [.level low, .reset] }).core.inputs = .level low :: [.reset] ∧
    ((FlaggedCore.mk true idle).core.inputs = [] ∧ high = (FlaggedCore.mk true idle).core.rxIn) ∧
    (FlaggedCore.mk true { idle with active := false, inputs := [.level low] }).core.inputs = .level low :: [] := by
  decide

theorem witness_FrameAndResetLeaveThePendingTick :
    (FlaggedCore.mk true { idle with inputs := [.frame 0x51 high] }).core.inputs = .frame 0x51 high :: [] ∧
    (FlaggedCore.mk true { idle with inputs := [.reset, .level low] }).core.inputs = .reset :: [.level low] := by
  decide

theorem witness_RbPeekReadsOrRefuses :
    (0 : Slot).toNat < (wholeCommand.buf .rxb).content.length ∧
    (1 : Slot).toNat < (wholeCommand.buf .rxb).content.length ∧
    (wholeCommand.buf .rxb).content.length ≤ (2 : Slot).toNat := by decide

theorem witness_RbCommitPublishesOrRejects :
    (({ idle with rxb := ring [] 0 14 } : State).buf .rxb).content.length < 15 ∧
    (({ idle with rxb := ring [] 1 0 } : State).buf .rxb).content.length = 15 := by decide

theorem witness_RbAppendIsWholeOrNothing :
    (Instr.rbAppend .txb [1, 2, 3, 4, 5]).wf = true ∧
    (({ idle with txb := ring [(4, 9)] 8 2 } : State).buf .txb).mem.wf = true ∧
    [1, 2, 3, 4, 5].length ≤ 15 - (({ idle with txb := ring [(4, 9)] 8 2 } : State).buf .txb).content.length ∧
    (({ idle with txb := ring [(4, 9)] 8 3 } : State).buf .txb).mem.wf = true ∧
    15 - (({ idle with txb := ring [(4, 9)] 8 3 } : State).buf .txb).content.length < [1, 2, 3, 4, 5].length := by
  decide

theorem witness_RbAdvConsumesTheOldestByte :
    (partialCommand.buf .rxb).content ≠ [] ∧ (idle.buf .rxb).content = [] := by decide

theorem witness_EqualReadsMakeEqualStorage :
    Memory.wf [(3, 7)] = true ∧ Memory.wf (Memory.write [(3, 9)] 3 7) = true ∧
      ∀ a : Slot, Memory.read [(3, 7)] a.toNat = Memory.read (Memory.write [(3, 9)] 3 7) a.toNat := by decide

theorem witness_RxIdleStartsOnlyOnAFallingEdge :
    (({ idle with rxIn := low } : State).rxLast = high ∧ ({ idle with rxIn := low } : State).rxIn = low) ∧
    ¬ (idle.rxLast = high ∧ idle.rxIn = low) := by decide

theorem witness_RxStartCommitsOrDismisses :
    (partialCommand.rxb.mem.wf = true ∧ ({ partialCommand with rxIn := low } : State).rxIn = low) ∧
      partialCommand.rxIn = high := by decide

/-- The eighth bit with room, the eighth bit without, and a bit before it. -/
theorem witness_RxDataTakesOneBit :
    ({ partialCommand with rxBit := 0x80 } : State).rxb.mem.wf = true ∧ (0x80 : BitVec 8) <<< 1 = 0 ∧
    partialCommand.rxb.content.length < 15 ∧
    ¬ ({ partialCommand with rxb := ring [(0, 0x51)] 0 15 } : State).rxb.content.length < 15 ∧
    ¬ partialCommand.rxBit <<< 1 = 0 := by decide

theorem witness_ReceivedFrameKeepsTheTimeline :
    idle.active = true ∧ idle.rxPhase = .idle ∧ idle.rxWait = 0 ∧ idle.rxLast = high ∧
      (List.replicate 40 low).length = 40 ∧ 1 ≤ 1 ∧ 1 ≤ 42 ∧ 42 ≤ 42 := by decide

theorem witness_ReceivedByteIsItsEightSamples :
    Inv partialCommand ∧ partialCommand.active = true ∧ partialCommand.rxPhase = .idle ∧
      partialCommand.rxLast = high ∧ (List.replicate 32 high).length = 32 :=
  ⟨partialCommand_inv, by decide⟩

theorem witness_WireFrameIsReceived :
    Inv partialCommand ∧ partialCommand.active = true ∧ partialCommand.rxPhase = .idle ∧
      partialCommand.rxLast = high :=
  ⟨partialCommand_inv, by decide⟩

theorem witness_TxIdleStartsOrReclaims :
    replyPending.txb.rd ≠ replyPending.txb.wr ∧ idle.txb.rd = idle.txb.wr := by decide

theorem witness_TransmittedFrameIsTheWireFrame :
    replyPending.active = true ∧ replyPending.txPhase = .idle ∧ replyPending.txWait = 0 ∧
      replyPending.txb.rd ≠ replyPending.txb.wr ∧ replyPending.txb.mem.wf = true ∧
      (List.replicate 3 low).length = 0 + 3 ∧ (List.replicate 47 low).length = 44 + 3 ∧
      (List.replicate 34 low).length = 34 := by decide

/-- The first and the last byte of TXB, with RXB empty and the wait 0, and with RXB holding a byte and the wait 1. -/
theorem witness_LoopBackReproducesEveryByte :
    (Inv replyPending ∧ replyPending.active = true ∧ replyPending.rxPhase = .idle ∧ replyPending.rxLast = high ∧
      replyPending.txPhase = .idle ∧ replyPending.txWait.toNat ≤ 1 ∧ replyPending.txPin = high ∧
      replyPending.txb.content[0]? = some 0x51 ∧ replyPending.txb.content[2]? = some 0x0D ∧
      replyPending.rxb.content = []) ∧
    (Inv replyBehindByte ∧ replyBehindByte.txWait.toNat ≤ 1 ∧ replyBehindByte.rxb.content = [0x51] ∧
      45 * 2 + 1 ≤ 91 ∧ 91 ≤ 45 * 2 + 45 ∧ 135 ≤ 45 * 2 + 45) :=
  ⟨⟨replyPending_inv, by decide⟩, replyBehindByte_inv, by decide⟩

theorem witness_TimeoutArmsOnceAndCountsDown :
    idle.rxTimeout = 0 ∧ ({ idle with rxTimeout := 1 } : State).rxTimeout ≠ 0 := by decide

/-- Closed for the phase, closed for the empty buffer, and open. -/
theorem witness_GateOpensOnlyWhenIdleWithBytes :
    ¬ (({ wholeCommand with rxPhase := .start } : State).rxPhase = .idle ∧ wholeCommand.rxb.rd ≠ wholeCommand.rxb.wr) ∧
    ¬ (idle.rxPhase = .idle ∧ idle.rxb.rd ≠ idle.rxb.wr) ∧
    (wholeCommand.rxPhase = .idle ∧ wholeCommand.rxb.rd ≠ wholeCommand.rxb.wr) := by decide

/-- Two entries, of which the second matches `RXB = [0x51, 0x0D]`. -/
def secondMatches : State := { wholeCommand with table := [{ query := [0x51, 0x0E], reply := [1] }, knownEntry] }

theorem secondMatches_first_does_not (j : Nat) (f : QueryTableEntry) (hj : j < 1)
    (hf : secondMatches.table[j]? = some f) : queryMatches secondMatches.rxb.content f = false := by
  obtain rfl : j = 0 := by omega
  simp only [secondMatches, List.getElem?_cons_zero, Option.some.injEq] at hf
  subst hf; decide

theorem partialCommand_none_matches : noEntryMatches partialCommand := by unfold noEntryMatches; decide

theorem partialCommand_some_longer : someEntryLonger partialCommand := by unfold someEntryLonger; decide

theorem witness_ScanTakesTheFirstMatchingEntry :
    noEntryMatches partialCommand ∧
    secondMatches.table[1]? = some knownEntry ∧ queryMatches secondMatches.rxb.content knownEntry = true ∧
    (∀ j f, j < 1 → secondMatches.table[j]? = some f → queryMatches secondMatches.rxb.content f = false) :=
  ⟨partialCommand_none_matches, by decide, by decide, secondMatches_first_does_not⟩

theorem witness_CompareIsEqualityWithTheHead :
    (wholeCommand.table[0]? = some knownEntry ∧ knownEntry.query.length = wholeCommand.rxb.content.length) ∧
    (partialCommand.table[0]? = some knownEntry ∧ partialCommand.rxb.content.length + 1 = knownEntry.query.length) ∧
    wholeCommand.table[1]? = none := by decide

theorem witness_ReplyIsAppendedOrDroppedWhole :
    (({ idle with txb := ring [] 0 12 } : State).txb.mem.wf = true ∧ idle.table[0]? = some knownEntry ∧
      knownEntry.reply.length ≤ 15 - ({ idle with txb := ring [] 0 12 } : State).txb.content.length) ∧
    15 - ({ idle with txb := ring [] 0 13 } : State).txb.content.length < knownEntry.reply.length ∧
    idle.table[1]? = none := by decide

theorem witness_ClearDecidesByPriority :
    partialCommand.rxTimeout ≠ 0 ∧ ({ partialCommand with rxTimeout := 0 } : State).rxTimeout = 0 := by decide

theorem witness_MatcherAnswersTheFirstMatch :
    secondMatches.rxPhase = .idle ∧ secondMatches.rxb.content ≠ [] ∧ secondMatches.txb.mem.wf = true ∧
    secondMatches.table[1]? = some knownEntry ∧ queryMatches secondMatches.rxb.content knownEntry = true ∧
    (∀ j f, j < 1 → secondMatches.table[j]? = some f → queryMatches secondMatches.rxb.content f = false) ∧
    knownEntry.reply.length ≤ 15 - secondMatches.txb.content.length ∧
    15 - ({ secondMatches with txb := ring [] 0 13 } : State).txb.content.length < knownEntry.reply.length :=
  ⟨by decide, by decide, by decide, by decide, by decide, secondMatches_first_does_not, by decide, by decide⟩

/-- `RXB = [0x41, 0x42]`: no entry of T1 matches and none is longer. -/
def unknownCommand : State := { idle with rxb := ring [(0, 0x41), (1, 0x42)] 0 2, rxTimeout := 397 }

theorem witness_MatcherKeepsOrClearsTheUnmatched :
    (partialCommand.rxPhase = .idle ∧ partialCommand.rxb.content ≠ [] ∧ partialCommand.rxTimeout ≠ 0) ∧
    noEntryMatches partialCommand ∧ someEntryLonger partialCommand ∧
    ({ partialCommand with rxTimeout := 0 } : State).rxTimeout = 0 ∧
    noEntryMatches unknownCommand ∧ ¬ someEntryLonger unknownCommand ∧ unknownCommand.rxb.content ≠ [] :=
  ⟨by decide, partialCommand_none_matches, partialCommand_some_longer, by decide,
    by unfold noEntryMatches; decide, by unfold someEntryLonger; decide, by decide⟩

theorem witness_PartialCommandIsClearedAtExpiry :
    partialCommand.active = true ∧ partialCommand.rxPhase = .idle ∧ partialCommand.rxb.content ≠ [] ∧
    noEntryMatches partialCommand ∧ someEntryLonger partialCommand ∧ partialCommand.rxTimeout ≠ 0 ∧
    0 < partialCommand.rxTimeout.toNat ∧ 435 < partialCommand.rxTimeout.toNat :=
  ⟨by decide, by decide, by decide, partialCommand_none_matches, partialCommand_some_longer, by decide⟩

theorem witness_KnownQueryIsAnswered :
    Inv idle ∧ idle.active = true ∧ quiescent idle = true ∧ idle.rxLast = high ∧ idle.table = [knownEntry] :=
  ⟨idle_inv, by decide⟩

theorem witness_StepKeepsTheInvariant : Inv partialCommand ∧ ∃ t, step partialCommand = .next t :=
  ⟨partialCommand_inv, _, rfl⟩

theorem witness_ReceiveBufferNeverOverflows :
    Inv partialCommand ∧ ∃ t, exec (.tick low) partialCommand = .next t := ⟨partialCommand_inv, _, rfl⟩

theorem witness_EventsOfOneTick : ∃ t, exec (.tick high) wholeCommand = .next t := ⟨_, rfl⟩

theorem witness_ObservationHasNoEffect : ∃ t, exec (.tick high) wholeCommand = .next t := ⟨_, rfl⟩

/-- Two states that differ in a stale slot of RXB. -/
theorem witness_StaleStorageIsNeverObserved :
    let t := { partialCommand with rxb := ring [(0, 0x51), (1, 0x99)] 0 1 }
    partialCommand.rxb.mem.wf = true ∧ partialCommand.txb.mem.wf = true ∧ t.rxb.mem.wf = true ∧
    t.txb.mem.wf = true ∧ txHasByte partialCommand = true ∧ sameButStale partialCommand t ∧
    partialCommand ≠ t ∧ ∃ s', exec (.tick low) partialCommand = .next s' :=
  ⟨by decide, by decide, by decide, by decide, by decide,
    ⟨by decide, by unfold sameContent; decide, by unfold sameContent; decide, by decide⟩, by decide, _, rfl⟩

theorem witness_QuiescentStateStands :
    idle.active = true ∧ quiescent idle = true ∧ idle.rxLast = high ∧ idle.txb.rd = 0 ∧
      idle.txPin = idle.txLevel := by decide

theorem witness_LineHeldHighLeadsToQuiescence : Inv replyPending ∧ replyPending.active = true :=
  ⟨replyPending_inv, by decide⟩

end Sys2Proof.Tests
end

section
/-! PROOFS. What every step keeps (spec/10_state.md R32). The invariant is cut into the receiver's clauses and the
transmitter's; each operation of a tick is shown once to keep the clauses of the machine it writes, and the frames of
R151 carry the others across. The one clause a dispatch can break is the bound on RXB's count in IDLE, which the
gate at the end of the same tick restores (R140). -/

namespace Sys2Proof.Machine

open Sys2Proof

/-- The receiver's clauses of `Inv` without its storage. The count is bounded here only while a frame is being
received: RX.STOP may leave one byte more than IDLE allows, and CM.GATE clears it in the same tick (R140). -/
structure RxInv (s : State) : Prop where
  waitBound : s.rxWait.toNat ≤ 4
  idleNoWait : s.rxPhase = .idle → s.rxWait = 0
  cursor : cursorFits s.rxPhase s.rxBit = true
  origin : s.rxb.rd = 0
  frameCount : s.rxPhase ≠ .idle →
    rxCountFits s.rxPhase (rbCount s.rxb).toNat (longestQuery s.table) = true
  timeoutBound : s.rxTimeout.toNat ≤ 480

/-- The transmitter's clauses of `Inv` without its storage. -/
structure TxInv (s : State) : Prop where
  waitBound : s.txWait.toNat ≤ 4
  cursor : cursorFits s.txPhase s.txBit = true
  hasByte : txHasByte s = true
  idleLevel : s.txPhase = .idle → s.txLevel = high

/-- RXB holds no more than a receiver in IDLE may find there (R32 (e)). -/
def IdleCount (s : State) : Prop :=
  rxCountFits .idle (rbCount s.rxb).toNat (longestQuery s.table) = true

theorem idleCount_iff (s : State) :
    IdleCount s ↔ (rbCount s.rxb).toNat = 0 ∨ (rbCount s.rxb).toNat < longestQuery s.table := by
  simp [IdleCount, rxCountFits]

theorem Inv.rxInv {s : State} (h : Inv s) : RxInv s where
  waitBound := h.rxWaitBound
  idleNoWait := h.rxIdleNoWait
  cursor := h.rxCursor
  origin := h.rxbOrigin
  frameCount _ := h.rxbCount
  timeoutBound := h.timeoutBound

theorem Inv.txInv {s : State} (h : Inv s) : TxInv s where
  waitBound := h.txWaitBound
  cursor := h.txCursor
  hasByte := h.txByte
  idleLevel := h.txIdleLevel

theorem Inv.idleCount {s : State} (h : Inv s) (hp : s.rxPhase = .idle) : IdleCount s := by
  have hc := h.rxbCount
  rwa [hp] at hc

/-- The invariant from its parts. -/
theorem Inv.of_parts {s : State} (hr : RxInv s) (hc : s.rxPhase = .idle → IdleCount s) (ht : TxInv s)
    (hrm : s.rxb.mem.wf = true) (htm : s.txb.mem.wf = true) (hq : tableWf s.table = true) : Inv s where
  rxWaitBound := hr.waitBound
  txWaitBound := ht.waitBound
  rxIdleNoWait := hr.idleNoWait
  rxCursor := hr.cursor
  txCursor := ht.cursor
  rxbOrigin := hr.origin
  rxbCount := by
    by_cases hp : s.rxPhase = .idle
    · rw [hp]; exact hc hp
    · exact hr.frameCount hp
  timeoutBound := hr.timeoutBound
  txByte := ht.hasByte
  txIdleLevel := ht.idleLevel
  rxbMemory := hrm
  txbMemory := htm
  tableOk := hq

/-! The operands: counters, the cursor, the counts of the buffers. -/

theorem countDown_toNat_le {n k : Nat} {c : BitVec n} (h : c.toNat ≤ k) : (countDown c).toNat ≤ k := by
  rw [countDown_toNat]; omega

@[simp] theorem countDown_zero {n : Nat} : countDown 0#n = 0#n := if_pos rfl

theorem quantaPerBit_le : Config.quantaPerBit.toNat ≤ 4 := by decide

/-- The cursor's next value is again one bit, or the terminator (R14, R87 (b)). -/
theorem cursorNext_oneBit {c : BitVec 8} (h : cursorOneBit c = true) :
    cursorNext c = cursorDone ∨ cursorOneBit (cursorNext c) = true := by
  simp only [cursorOneBit, Bool.or_eq_true, decide_eq_true_eq, or_assoc] at h
  rcases h with rfl | rfl | rfl | rfl | rfl | rfl | rfl | rfl <;> decide

/-- RB.COMMIT adds at most one byte (R83). -/
theorem rbCommit_count_le (b : RingBuf) : (rbCount (rbCommit b).1).toNat ≤ (rbCount b).toNat + 1 := by
  rw [rbCommit_eq]
  split
  · simp only [rbCount, slotNext] at *; bv_omega
  · omega

/-- RB.APPEND leaves a buffer that holds a byte not empty (R84). -/
theorem rbAppend_nonempty {b : RingBuf} (h : b.rd ≠ b.wr) (seq : ByteSeq) :
    (rbAppend b seq).1.rd ≠ (rbAppend b seq).1.wr := by
  unfold rbAppend
  split
  · next hfit =>
    rw [rbFree_toNat] at hfit
    rw [rbWriteAll_rd, rbWriteAll_wr]
    simp only [rbCount] at hfit
    bv_omega
  · exact h

/-- TO.ARM keeps the timeout's bound (R32 (g), R135). -/
theorem toArm_rxTimeout_le {s : State} (h : s.rxTimeout.toNat ≤ 480) : (toArm s).rxTimeout.toNat ≤ 480 := by
  rw [toArm_eq]
  dsimp only
  split
  · decide
  · exact h

/-! The receiver's operations. -/

theorem rxCountDown_rxInv {s : State} (h : RxInv s) : RxInv (rxCountDown s) :=
  { h with
    waitBound := countDown_toNat_le h.waitBound
    idleNoWait := fun hp => by
      have hw : s.rxWait = 0 := h.idleNoWait hp
      simp [hw] }

theorem toTick_rxInv {s : State} (h : RxInv s) : RxInv (toTick s) :=
  { h with timeoutBound := countDown_toNat_le h.timeoutBound }

theorem rxIdle_rxInv {s : State} (h : RxInv s) (hc : IdleCount s) : RxInv (rxIdle s) := by
  unfold rxIdle
  split
  · exact { h with
      waitBound := show Config.startRecheckQuanta.toNat ≤ 4 by decide
      idleNoWait := nofun
      cursor := rfl
      frameCount := fun _ => hc }
  · exact h

theorem rxStart_rxInv {s : State} (h : RxInv s) (hp : s.rxPhase = .start) : RxInv (rxStart s) := by
  unfold rxStart
  split
  · have hc := h.frameCount (by simp [hp])
    rw [hp] at hc
    unfold rxStartCommit
    exact {
      waitBound := quantaPerBit_le
      idleNoWait := by simp [toArm_eq]
      cursor := by simp [toArm_eq, cursorFits, cursorFirst, cursorOneBit]
      origin := by simpa [toArm_eq] using h.origin
      frameCount := by rw [toArm_eq]; exact fun _ => hc
      timeoutBound := toArm_rxTimeout_le h.timeoutBound }
  · exact { h with
      waitBound := Nat.zero_le _
      idleNoWait := fun _ => rfl
      cursor := rfl
      frameCount := fun hne => absurd rfl hne }

theorem rxTakeBit_rxInv {s : State} (h : RxInv s) : RxInv (rxTakeBit s) := by
  unfold rxTakeBit
  split
  · exact { h with }
  · exact h

@[simp] theorem rxTakeBit_rxPhase (s : State) : (rxTakeBit s).rxPhase = s.rxPhase := by
  unfold rxTakeBit; split <;> rfl

/-- The end of a byte: the count that fitted a frame's data fits, with the byte committed, its parity bit. -/
theorem rxFinishByte_count {s : State}
    (h : rxCountFits .data (rbCount s.rxb).toNat (longestQuery s.table) = true) :
    rxCountFits .parity (rbCount (rxFinishByte s).rxb).toNat (longestQuery s.table) = true := by
  have hle := rbCommit_count_le s.rxb
  simp only [rxCountFits, Bool.or_eq_true, decide_eq_true_eq] at h ⊢
  change (rbCount (rbCommit s.rxb).1).toNat ≤ _
  omega

theorem rxData_rxInv {s : State} (h : RxInv s) (hp : s.rxPhase = .data) : RxInv (rxData s) := by
  have ht := rxTakeBit_rxInv h
  have htp : (rxTakeBit s).rxPhase = .data := by rw [rxTakeBit_rxPhase, hp]
  have hcur := ht.cursor
  have hcnt := ht.frameCount (by simp [hp])
  rw [htp] at hcur hcnt
  unfold rxData
  dsimp only
  split
  · next hdone =>
    exact { ht with
      waitBound := quantaPerBit_le
      idleNoWait := nofun
      cursor := decide_eq_true hdone
      origin := by simpa [rxFinishByte] using ht.origin
      frameCount := fun _ => rxFinishByte_count (s := { rxTakeBit s with rxBit := _ }) hcnt }
  · next hmore =>
    exact { ht with
      waitBound := quantaPerBit_le
      idleNoWait := by simp [hp]
      cursor := by
        dsimp only
        rw [htp]
        exact (cursorNext_oneBit hcur).resolve_left hmore }

theorem rxParity_rxInv {s : State} (h : RxInv s) (hp : s.rxPhase = .parity) : RxInv (rxParity s) := by
  have hcur := h.cursor
  have hcnt := h.frameCount (by simp [hp])
  rw [hp] at hcur hcnt
  unfold rxParity
  dsimp only
  split <;> exact { h with
    waitBound := quantaPerBit_le
    idleNoWait := nofun
    cursor := hcur
    frameCount := fun _ => hcnt }

theorem rxStop_rxInv {s : State} (h : RxInv s) : RxInv (rxStop s) := by
  unfold rxStop
  dsimp only
  split <;> exact { h with
    waitBound := Nat.zero_le _
    idleNoWait := fun _ => rfl
    cursor := rfl
    frameCount := fun hne => absurd rfl hne }

theorem rxDispatch_rxInv {s : State} (h : RxInv s) (hc : s.rxPhase = .idle → IdleCount s) :
    RxInv (rxDispatch s) := by
  have hd := rxCountDown_rxInv h
  unfold rxDispatch rxSelected
  split
  · split
    case h_1 hp => exact rxIdle_rxInv hd (hc hp)
    case h_2 hp => exact rxStart_rxInv hd hp
    case h_3 hp => exact rxData_rxInv hd hp
    case h_4 hp => exact rxParity_rxInv hd hp
    case h_5 => exact rxStop_rxInv hd
  · exact hd

/-! The transmitter's operations. -/

theorem txCountDown_txInv {s : State} (h : TxInv s) : TxInv (txCountDown s) :=
  { h with waitBound := countDown_toNat_le h.waitBound }

theorem txIdle_txInv {s : State} (h : TxInv s) (hp : s.txPhase = .idle) : TxInv (txIdle s) := by
  unfold txIdle
  split
  · exact { h with hasByte := by simp [txHasByte, hp] }
  · next hne => exact {
      waitBound := show (1 : BitVec 3).toNat ≤ 4 by decide
      cursor := rfl
      hasByte := by simpa [txHasByte] using hne
      idleLevel := nofun }

theorem txStart_txInv {s : State} (h : TxInv s) (hp : s.txPhase = .start) : TxInv (txStart s) where
  waitBound := quantaPerBit_le
  cursor := rfl
  hasByte := by
    have hb := h.hasByte
    unfold txHasByte at hb
    rwa [hp] at hb
  idleLevel := nofun

theorem txData_txInv {s : State} (h : TxInv s) (hp : s.txPhase = .data) : TxInv (txData s) := by
  have hcur := h.cursor
  rw [hp] at hcur
  unfold txData
  dsimp only
  split
  · next hdone => exact {
      waitBound := quantaPerBit_le
      cursor := decide_eq_true hdone
      hasByte := rfl
      idleLevel := nofun }
  · next hmore => exact {
      waitBound := quantaPerBit_le
      cursor := by
        dsimp only
        rw [hp]
        exact (cursorNext_oneBit hcur).resolve_left hmore
      hasByte := by simpa [txHasByte, hp] using h.hasByte
      idleLevel := by simp [hp] }

theorem txParity_txInv {s : State} (h : TxInv s) (hp : s.txPhase = .parity) : TxInv (txParity s) where
  waitBound := quantaPerBit_le
  cursor := by
    have hcur := h.cursor
    rwa [hp] at hcur
  hasByte := rfl
  idleLevel := nofun

theorem txStop_txInv (s : State) : TxInv (txStop s) where
  waitBound := quantaPerBit_le
  cursor := rfl
  hasByte := rfl
  idleLevel _ := rfl

theorem txDispatch_txInv {s : State} (h : TxInv s) : TxInv (txDispatch s) := by
  have hd := txCountDown_txInv h
  unfold txDispatch txSelected
  split
  · split
    case h_1 hp => exact txIdle_txInv hd hp
    case h_2 hp => exact txStart_txInv hd hp
    case h_3 hp => exact txData_txInv hd hp
    case h_4 hp => exact txParity_txInv hd hp
    case h_5 => exact txStop_txInv _
  · exact hd

/-! What one machine does not write it keeps (R151). -/

theorem RxInv.of_txFrame {s t : State} (h : RxInv s) (hf : txFrame s t) : RxInv t := by
  obtain ⟨-, hp, hw, hb, -, hto, -, hrxb, -, -, -, htab, -⟩ := hf
  constructor
  · rw [hw]; exact h.waitBound
  · rw [hp, hw]; exact h.idleNoWait
  · rw [hp, hb]; exact h.cursor
  · rw [hrxb]; exact h.origin
  · rw [hp, hrxb, htab]; exact h.frameCount
  · rw [hto]; exact h.timeoutBound

/-- The transmitter's clauses in a state with its registers, where TXB was not emptied. -/
theorem TxInv.of_eq {s t : State} (h : TxInv s) (hp : t.txPhase = s.txPhase) (hw : t.txWait = s.txWait)
    (hb : t.txBit = s.txBit) (hl : t.txLevel = s.txLevel) (hne : s.txb.rd ≠ s.txb.wr → t.txb.rd ≠ t.txb.wr) :
    TxInv t where
  waitBound := hw ▸ h.waitBound
  cursor := hp ▸ hb ▸ h.cursor
  hasByte := by
    have hs := h.hasByte
    unfold txHasByte at hs ⊢
    rw [hp]
    split <;> simp_all
  idleLevel := hp ▸ hl ▸ h.idleLevel

theorem TxInv.of_rxFrame {s t : State} (h : TxInv s) (hf : rxFrame s t) : TxInv t := by
  obtain ⟨-, hl, -, hp, hw, hb, -, htxb, -⟩ := hf
  exact h.of_eq hp hw hb hl (by rw [htxb]; exact id)

/-! The matcher. -/

/-- An entry that needs more bytes than RXB holds makes the longest query longer than the content: the scan
reports `could_match` only then (R131). -/
theorem scanFrom_couldMatch (es : List QueryTableEntry) {i : Nat} {c : Bool} {s : State}
    (h : (scanFrom i c s es).couldMatch = true) :
    c = true ∨ (rbCount s.rxb).toNat < longestQuery es := by
  induction es generalizing i c with
  | nil => exact .inl h
  | cons e rest ih =>
    unfold scanFrom at h
    simp only [longestQuery, lt_max_iff]
    split at h
    · next hlt => exact .inr (.inl hlt)
    · split at h
      · exact .inl h
      · exact (ih h).imp_right .inr

/-- CM.CLEAR clears for some reason, or keeps the buffer of a command that could still match (R134). -/
theorem cmClear_cases (m c : Bool) (s : State) :
    (cmClear m c s = s ∧ c = true) ∨ ∃ r, cmClear m c s = clearFor r s := by
  unfold cmClear
  split
  · next hr =>
    refine .inl ⟨rfl, ?_⟩
    cases c with
    | true => rfl
    | false => cases m <;> simp [clearReason] at hr
  · next r _ => exact .inr ⟨r, rfl⟩

@[simp] theorem clearFor_rxb (r : ClearReason) (s : State) : (clearFor r s).rxb = rbClear s.rxb := by
  unfold clearFor; dsimp only; split <;> rfl

@[simp] theorem clearFor_rxTimeout (r : ClearReason) (s : State) : (clearFor r s).rxTimeout = 0 := rfl

/-- What CM.GATE can leave in RXB: nothing done where it is closed; behind a scan, RXB kept because an entry is
longer than its content, or RXB emptied and the timeout stopped (R130, R131, R134). -/
theorem cmGate_cases (s : State) :
    ((s.rxPhase ≠ .idle ∨ s.rxb.rd = s.rxb.wr) ∧ cmGate s = s) ∨
    (s.rxPhase = .idle ∧ (rbCount s.rxb).toNat < longestQuery s.table ∧ (cmGate s).rxb = s.rxb ∧
      (cmGate s).rxTimeout = s.rxTimeout) ∨
    (s.rxPhase = .idle ∧ (cmGate s).rxb = rbClear s.rxb ∧ (cmGate s).rxTimeout = 0) := by
  unfold cmGate
  split
  · next hopen =>
    obtain ⟨-, hrxb, hto⟩ := scanFrom_frame s.table 0 false s
    dsimp only
    rcases cmClear_cases (cmScan s).matched (cmScan s).couldMatch (cmScan s).state with
      ⟨hkeep, hcould⟩ | ⟨r, hclear⟩
    · have hlonger := (scanFrom_couldMatch s.table hcould).resolve_left (by simp)
      rw [hkeep]
      exact .inr (.inl ⟨hopen.1, hlonger, hrxb, hto⟩)
    · rw [hclear, clearFor_rxb, clearFor_rxTimeout]
      exact .inr (.inr ⟨hopen.1, congrArg rbClear hrxb, rfl⟩)
  · next hclosed =>
    refine .inl ⟨?_, rfl⟩
    by_cases hp : s.rxPhase = .idle
    · exact .inr (by_contra fun hne => hclosed ⟨hp, hne⟩)
    · exact .inl hp

@[simp] theorem cmGate_table (s : State) : (cmGate s).table = s.table := by
  have hf := cmGate_frame s
  unfold cmFrame at hf
  simp [hf]

/-- Behind the gate a receiver in IDLE holds nothing, or less than the longest query (R140). -/
theorem cmGate_idleCount {s : State} (hp : s.rxPhase = .idle) : IdleCount (cmGate s) := by
  rw [idleCount_iff, cmGate_table]
  rcases cmGate_cases s with ⟨hclosed, hs⟩ | ⟨-, hlonger, hrxb, -⟩ | ⟨-, hrxb, -⟩
  · have hempty := (rbCount_eq_zero s.rxb).mpr (hclosed.resolve_left (by simp [hp]))
    exact .inl (by simp [hs, hempty])
  · exact .inr (hrxb ▸ hlonger)
  · exact .inl (by simp [hrxb, rbCount])

theorem cmGate_rxInv {s : State} (h : RxInv s) : RxInv (cmGate s) := by
  obtain ⟨-, hp, hw, hb, -⟩ := cmGate_frame s
  rcases cmGate_cases s with ⟨-, hs⟩ | ⟨hidle, -, hrxb, hto⟩ | ⟨hidle, hrxb, hto⟩
  · rwa [hs]
  · exact {
      waitBound := hw ▸ h.waitBound
      idleNoWait := hp ▸ hw ▸ h.idleNoWait
      cursor := hp ▸ hb ▸ h.cursor
      origin := hrxb ▸ h.origin
      frameCount := fun hne => absurd (hp.trans hidle) hne
      timeoutBound := hto ▸ h.timeoutBound }
  · exact {
      waitBound := hw ▸ h.waitBound
      idleNoWait := hp ▸ hw ▸ h.idleNoWait
      cursor := hp ▸ hb ▸ h.cursor
      origin := by rw [hrxb]; rfl
      frameCount := fun hne => absurd (hp.trans hidle) hne
      timeoutBound := by rw [hto]; exact Nat.zero_le _ }

theorem cmReply_nonempty {s : State} (h : s.txb.rd ≠ s.txb.wr) (i : Nat) (q : ByteSeq) :
    (cmReply i q s).txb.rd ≠ (cmReply i q s).txb.wr := by
  unfold cmReply
  dsimp only
  split
  · exact rbAppend_nonempty h q
  · exact h

theorem scanFrom_nonempty {s : State} (h : s.txb.rd ≠ s.txb.wr) (es : List QueryTableEntry) (i : Nat) (c : Bool) :
    (scanFrom i c s es).state.txb.rd ≠ (scanFrom i c s es).state.txb.wr := by
  induction es generalizing i c with
  | nil => exact h
  | cons e rest ih =>
    unfold scanFrom
    split
    · exact ih _ _
    · split
      · exact cmReply_nonempty (s := State.emit (.matched i) s) h _ _
      · exact ih _ _

/-- The matcher only appends to TXB: a byte that waits there still waits (R133). -/
theorem cmGate_nonempty {s : State} (h : s.txb.rd ≠ s.txb.wr) : (cmGate s).txb.rd ≠ (cmGate s).txb.wr := by
  unfold cmGate
  split
  · dsimp only
    rw [(cmClear_frame _ _ _).2]
    exact scanFrom_nonempty h s.table 0 false
  · exact h

theorem cmGate_txInv {s : State} (h : TxInv s) : TxInv (cmGate s) := by
  obtain ⟨-, -, -, -, -, hl, -, hp, hw, hb, -⟩ := cmGate_frame s
  exact h.of_eq hp hw hb hl cmGate_nonempty

/-! The steps. -/

theorem beginTick_inv {s : State} (h : Inv s) (x : Level) : Inv (beginTick x s) := { h with }

/-- What the environment has queued is no part of the invariant. -/
theorem Inv.with_inputs {s : State} (h : Inv s) (q : List Stimulus) : Inv { s with inputs := q } := { h with }

theorem tickSubSteps_inv {s : State} (h : Inv s) (x : Level) : Inv (tickSubSteps x s) := by
  obtain ⟨hrm, htm⟩ := tickSubSteps_wf x h.rxbMemory h.txbMemory
  have htab : tableWf (tickSubSteps x s).table = true := by
    obtain ⟨-, -, -, -, -, ht, -⟩ := tickSubSteps_frame x s
    rw [ht]; exact h.tableOk
  have hr4 : RxInv (rxDispatch (toTick (txDrive (beginTick x s)))) :=
    rxDispatch_rxInv (toTick_rxInv { h.rxInv with }) h.idleCount
  have ht4 : TxInv (rxDispatch (toTick (txDrive (beginTick x s)))) :=
    TxInv.of_rxFrame (s := toTick (txDrive (beginTick x s))) { h.txInv with } (rxDispatch_frame _)
  have hr6 : RxInv (txDispatch (rxLatch x (rxDispatch (toTick (txDrive (beginTick x s)))))) :=
    RxInv.of_txFrame (s := rxLatch x _) { hr4 with } (txDispatch_frame _)
  have ht6 : TxInv (txDispatch (rxLatch x (rxDispatch (toTick (txDrive (beginTick x s)))))) :=
    txDispatch_txInv { ht4 with }
  have hidle : (tickSubSteps x s).rxPhase = .idle → IdleCount (tickSubSteps x s) := by
    intro hp
    obtain ⟨-, hphase, -⟩ := cmGate_frame (txDispatch (rxLatch x (rxDispatch (toTick (txDrive (beginTick x s))))))
    exact cmGate_idleCount (hphase.symm.trans hp)
  exact Inv.of_parts (cmGate_rxInv hr6) hidle (cmGate_txInv ht6) hrm htm htab

/-- TICK keeps the invariant, whether the core is active or not (R150, R153). -/
theorem execTick_inv {s t : State} (h : Inv s) {x : Level} (ht : execTick x s = .next t) : Inv t := by
  rcases execTick_cases ht with ⟨-, rfl⟩ | ⟨-, rfl⟩
  · exact tickSubSteps_inv h x
  · exact beginTick_inv h x

/-- RESET gives the invariant to any state with canonical storage and a well-formed table (R190). -/
theorem resetCore_inv {s : State} (hr : s.rxb.mem.wf = true) (ht : s.txb.mem.wf = true)
    (hq : tableWf s.table = true) : Inv (resetCore s) where
  rxWaitBound := Nat.zero_le _
  txWaitBound := Nat.zero_le _
  rxIdleNoWait _ := rfl
  rxCursor := rfl
  txCursor := rfl
  rxbOrigin := rfl
  rxbCount := by simp [resetCore, rxCountFits, rbCount]
  timeoutBound := Nat.zero_le _
  txByte := rfl
  txIdleLevel _ := rfl
  rxbMemory := hr
  txbMemory := ht
  tableOk := hq

/-- Settles O53: the step is a TICK, the expansion of a frame, or a RESET, and each keeps the invariant. -/
theorem stepKeepsTheInvariant : Obligations.StepKeepsTheInvariant := by
  unfold Obligations.StepKeepsTheInvariant
  intro s t h hstep
  rcases step_cases s with ⟨-, hs⟩ | ⟨x, rest, -, hs⟩ | ⟨b, p, rest, -, hs⟩ | ⟨rest, -, hs⟩ <;> rw [hs] at hstep
  · exact execTick_inv h hstep
  · exact execTick_inv (h.with_inputs rest) hstep
  · cases hstep; exact h.with_inputs _
  · cases hstep; exact resetCore_inv h.rxbMemory h.txbMemory h.tableOk

/-- Settles O54: the reset state is what RESET makes of itself. -/
theorem resetStateHasTheInvariant : Obligations.ResetStateHasTheInvariant := by
  unfold Obligations.ResetStateHasTheInvariant
  obtain ⟨hr, ht⟩ := reset_memories_wf
  exact resetCore_inv (s := State.reset) hr ht rfl

end Sys2Proof.Machine
end

section
/-! PROOFS. What a tick leaves for the next one, and the shared flag (spec/10_state.md R18, R30). -/

namespace Sys2Proof.Machine

open Sys2Proof

/-- TICK always has a next state (R155). -/
theorem execTick_next (x : Level) (s : State) : ∃ t, execTick x s = .next t := by
  cases ha : s.active with
  | true => exact ⟨_, execTick_active ha x⟩
  | false => exact ⟨_, execTick_inactive ha x⟩

/-- Settles O13, from the frame of the whole of TICK. -/
theorem tickLagsThePinAndLatchesTheSample : Obligations.TickLagsThePinAndLatchesTheSample := by
  unfold Obligations.TickLagsThePinAndLatchesTheSample
  intro s t x ha htick
  rw [exec_tick, execTick_active ha] at htick
  cases htick
  obtain ⟨hlast, -, hpin, hen, hact, htab, hin, -⟩ := tickSubSteps_frame x s
  have hline : (tickSubSteps x s).txLine = some s.txLevel := by
    unfold State.txLine; rw [hact, if_pos ha, hpin]
  exact ⟨hpin, hline, hlast, htab, hen, hin⟩

/-- Where a tick is next, a turn with the flag clear waits (R51, R152). -/
theorem loopTurn_of_flag_clear {l : FlaggedCore} (ha : awaitsTick l.core = true) (hf : l.tickFlag = false) :
    loopTurn l = .next l := by
  rcases loopTurn_cases l with ⟨-, -, hl⟩ | ⟨-, ht, -⟩ | ⟨hn, -⟩
  · exact hl
  · simp [hf] at ht
  · simp [ha] at hn

/-- Where a tick is next, a turn with the flag set clears it and takes the step (R51, R152). -/
theorem loopTurn_of_flag_set {l : FlaggedCore} {t : State} (ha : awaitsTick l.core = true)
    (hf : l.tickFlag = true) (ht : step l.core = .next t) :
    loopTurn l = .next { tickFlag := false, core := t } := by
  rcases loopTurn_cases l with ⟨-, hc, -⟩ | ⟨-, -, hl⟩ | ⟨hn, -⟩
  · simp [hf] at hc
  · rw [hl, stepWithFlag_next false ht]
  · simp [ha] at hn

/-- Where no tick is next, a turn takes the step at once and leaves the flag (log 26). -/
theorem loopTurn_of_not_awaitsTick {l : FlaggedCore} {t : State} (ha : awaitsTick l.core = false)
    (ht : step l.core = .next t) : loopTurn l = .next { l with core := t } := by
  rcases loopTurn_cases l with ⟨hy, -⟩ | ⟨hy, -⟩ | ⟨-, hl⟩
  · simp [ha] at hy
  · simp [ha] at hy
  · rw [hl, stepWithFlag_next l.tickFlag ht]

/-- A level at the head of the queue, or the level held with nothing queued: the step is the TICK with it. -/
theorem step_eq_execTick {s : State} {x : Level} {rest : List Stimulus}
    (h : s.inputs = .level x :: rest ∨ (s.inputs = [] ∧ x = s.rxIn ∧ rest = [])) :
    awaitsTick s = true ∧ step s = execTick x { s with inputs := rest } := by
  rcases h with hq | ⟨hq, rfl, rfl⟩
  · simp [awaitsTick, step, fetch, hq]
  · have hstep : step s = execTick s.rxIn s := by simp [step, fetch, hq]
    refine ⟨by simp [awaitsTick, hq], ?_⟩
    rw [hstep, ← hq]

/-- Settles O15: with the flag set, by one tick or by two, the turn is the TICK; with it clear, the turn waits. -/
theorem secondTickIsAbsorbed : Obligations.SecondTickIsAbsorbed := by
  unfold Obligations.SecondTickIsAbsorbed
  intro l x rest hq
  obtain ⟨hawaits, hstep⟩ := step_eq_execTick hq
  obtain ⟨t, ht⟩ := execTick_next x { l.core with inputs := rest }
  have hturn : loopTurn (tickArrives l) = .next { tickFlag := false, core := t } :=
    loopTurn_of_flag_set hawaits rfl (hstep.trans ht)
  refine ⟨t, ht, ?_, hturn, loopTurn_of_flag_clear hawaits rfl⟩
  rw [tickArrives_tickArrives, hturn]

/-- Settles O16: neither stimulus is a tick, so the turn takes its step whatever the flag. -/
theorem frameAndResetLeaveThePendingTick : Obligations.FrameAndResetLeaveThePendingTick := by
  unfold Obligations.FrameAndResetLeaveThePendingTick
  intro l rest
  constructor
  · intro b p hq
    have hawaits : awaitsTick l.core = false := by simp [awaitsTick, hq]
    have hstep : step l.core = execFrame b p { l.core with inputs := rest } := by simp [step, fetch, hq]
    exact ⟨_, rfl, loopTurn_of_not_awaitsTick hawaits hstep⟩
  · intro hq
    have hawaits : awaitsTick l.core = false := by simp [awaitsTick, hq]
    have hstep : step l.core = execReset { l.core with inputs := rest } := by simp [step, fetch, hq]
    exact ⟨_, rfl, loopTurn_of_not_awaitsTick hawaits hstep⟩

end Sys2Proof.Machine
end

section
/-! PROOFS. What the storage of a buffer says (spec/20_memory.md R44): a canonical storage is its reads, and the
content of a buffer is its published bytes, whatever each operation does to the slots around them. -/

namespace Sys2Proof.Machine

open Sys2Proof

/-! The canonical form: a storage is determined by what it reads as. -/

theorem memoryWfFrom_cons {k a : Nat} {v : Byte} {m : Memory} :
    memoryWfFrom k ((a, v) :: m) = true ↔
      k ≤ a ∧ a < Config.rbCapacity ∧ v ≠ unwrittenByte ∧ memoryWfFrom (a + 1) m = true := by
  simp [memoryWfFrom, and_assoc]

/-- A canonical storage that lists a cell and one whose slots start at `k` read alike at that cell's slot only if
the cell is not below `k`: there the second would read as an unwritten slot, which no cell lists. -/
theorem le_of_read_head_eq {a j k : Nat} {v : Byte} {m n : Memory}
    (hm : memoryWfFrom j ((a, v) :: m) = true) (hn : memoryWfFrom k n = true)
    (hread : Memory.read ((a, v) :: m) a = n.read a) : k ≤ a := by
  by_contra hlt
  obtain ⟨-, -, hv, -⟩ := memoryWfFrom_cons.mp hm
  rw [read_of_wfFrom_lt hn (by omega), Memory.read, if_pos rfl] at hread
  exact hv hread

theorem eq_nil_of_read_eq {n : Memory} {k : Nat} (hn : memoryWfFrom k n = true)
    (hread : ∀ a < Config.rbCapacity, n.read a = unwrittenByte) : n = [] := by
  cases n with
  | nil => rfl
  | cons c n =>
    obtain ⟨a, v⟩ := c
    obtain ⟨-, ha, hv, -⟩ := memoryWfFrom_cons.mp hn
    exact absurd (by simpa [Memory.read] using hread a ha) hv

/-- Canonical storages with heads at the same slot read alike only if the heads hold the same byte and the tails
read alike: at the heads' slot both tails read as an unwritten slot. -/
theorem read_eq_tail {a j k : Nat} {v w : Byte} {m n : Memory} (hm : memoryWfFrom j ((a, v) :: m) = true)
    (hn : memoryWfFrom k ((a, w) :: n) = true)
    (hread : ∀ i < Config.rbCapacity, Memory.read ((a, v) :: m) i = Memory.read ((a, w) :: n) i) :
    v = w ∧ ∀ i < Config.rbCapacity, m.read i = n.read i := by
  obtain ⟨-, ha, -, hmrest⟩ := memoryWfFrom_cons.mp hm
  obtain ⟨-, -, -, hnrest⟩ := memoryWfFrom_cons.mp hn
  refine ⟨by simpa [Memory.read] using hread a ha, fun i hi => ?_⟩
  by_cases hia : a = i
  · subst hia
    rw [read_of_wfFrom_lt hmrest (by omega), read_of_wfFrom_lt hnrest (by omega)]
  · simpa [Memory.read, hia] using hread i hi

theorem eq_of_read_eq_from {m n : Memory} {j k : Nat} (hm : memoryWfFrom j m = true)
    (hn : memoryWfFrom k n = true) (hread : ∀ a < Config.rbCapacity, m.read a = n.read a) : m = n := by
  induction m generalizing n j k with
  | nil => exact (eq_nil_of_read_eq hn fun a ha => (hread a ha).symm).symm
  | cons c m ih =>
    obtain ⟨a, v⟩ := c
    obtain ⟨-, ha, hv, hmrest⟩ := memoryWfFrom_cons.mp hm
    cases n with
    | nil => exact eq_nil_of_read_eq hm hread
    | cons d n =>
      obtain ⟨b, w⟩ := d
      obtain ⟨-, hb, hw, hnrest⟩ := memoryWfFrom_cons.mp hn
      have hba : b ≤ a :=
        le_of_read_head_eq hm (memoryWfFrom_cons.mpr ⟨le_rfl, hb, hw, hnrest⟩) (hread a ha)
      have hab : a ≤ b :=
        le_of_read_head_eq hn (memoryWfFrom_cons.mpr ⟨le_rfl, ha, hv, hmrest⟩) (hread b hb).symm
      obtain rfl : a = b := le_antisymm hab hba
      obtain ⟨hvw, htail⟩ := read_eq_tail hm hn hread
      rw [hvw, ih hmrest hnrest htail]

/-- Settles O25: the heads of the two lists are the same cell, and behind it the tails read the same. -/
theorem equalReadsMakeEqualStorage : Obligations.EqualReadsMakeEqualStorage := by
  unfold Obligations.EqualReadsMakeEqualStorage
  intro m n hm hn hread
  refine eq_of_read_eq_from hm hn fun a ha => ?_
  have ha16 : a < 16 := ha
  simpa [Nat.mod_eq_of_lt ha16] using hread (BitVec.ofNat 4 a)

/-! The slots from an index on. -/

theorem slotsFrom_congr {a b : RingBuf} {i : Slot} {n : Nat}
    (h : ∀ k < n, a.slot (i + BitVec.ofNat 4 k) = b.slot (i + BitVec.ofNat 4 k)) :
    slotsFrom a i n = slotsFrom b i n := by
  induction n generalizing i with
  | zero => rfl
  | succ n ih =>
    have hhead : a.slot i = b.slot i := by simpa using h 0 (by omega)
    have htail : slotsFrom a (slotNext i) n = slotsFrom b (slotNext i) n := by
      refine ih fun k hk => ?_
      have hnext : slotNext i + BitVec.ofNat 4 k = i + BitVec.ofNat 4 (k + 1) := by
        unfold slotNext; bv_omega
      rw [hnext]
      exact h (k + 1) (by omega)
    rw [slotsFrom, slotsFrom, hhead, htail]

theorem slotsFrom_add (b : RingBuf) (i : Slot) (m n : Nat) :
    slotsFrom b i (m + n) = slotsFrom b i m ++ slotsFrom b (i + BitVec.ofNat 4 m) n := by
  induction m generalizing i with
  | zero => simp [slotsFrom]
  | succ m ih =>
    have hnext : slotNext i + BitVec.ofNat 4 m = i + BitVec.ofNat 4 (m + 1) := by
      unfold slotNext; bv_omega
    rw [Nat.succ_add_eq_add_succ, Nat.add_succ, slotsFrom, ih, hnext]
    rfl

theorem slotsFrom_take (b : RingBuf) (i : Slot) {m n : Nat} (h : m ≤ n) :
    (slotsFrom b i n).take m = slotsFrom b i m := by
  obtain ⟨d, rfl⟩ := Nat.exists_eq_add_of_le h
  rw [slotsFrom_add, List.take_left' (slotsFrom_length b i m)]

/-! The content of a buffer after each operation. -/

/-- The slot at the write index is not part of the content (R45): a write to it leaves the content. -/
theorem content_setSlot_wr {b : RingBuf} (h : b.mem.wf = true) (v : Byte) :
    (b.setSlot b.wr v).content = b.content := by
  refine slotsFrom_congr fun k hk => ?_
  have hk' : k < (b.wr - b.rd).toNat := hk
  rw [slot_setSlot h, setSlot_rd, if_neg (by bv_omega)]

/-- Advancing the write index of a buffer that has room publishes the byte in its slot (R83). -/
theorem content_advance_wr {b : RingBuf} (h : (rbCount b).toNat < 15) :
    ({ b with wr := slotNext b.wr } : RingBuf).content = b.content ++ [b.slot b.wr] := by
  have hcount : (slotNext b.wr - b.rd).toNat = (rbCount b).toNat + 1 := by
    unfold rbCount slotNext at *; bv_omega
  have hlast : b.rd + BitVec.ofNat 4 (rbCount b).toNat = b.wr := by
    unfold rbCount; bv_omega
  calc ({ b with wr := slotNext b.wr } : RingBuf).content
      = slotsFrom b b.rd ((rbCount b).toNat + 1) :=
        (congrArg (slotsFrom _ b.rd) hcount).trans (slotsFrom_congr fun _ _ => rfl)
    _ = b.content ++ [b.slot b.wr] := by rw [slotsFrom_add, hlast]; rfl

/-- A sequence that fits stands behind the content (R84). -/
theorem content_rbWriteAll {b : RingBuf} (h : b.mem.wf = true) {seq : ByteSeq}
    (hfit : (rbCount b).toNat + seq.length ≤ 15) : (rbWriteAll b seq).content = b.content ++ seq := by
  induction seq generalizing b with
  | nil => simp [rbWriteAll]
  | cons v rest ih =>
    simp only [List.length_cons] at hfit
    have hroom : (rbCount (b.setSlot b.wr v)).toNat < 15 := show (rbCount b).toNat < 15 by omega
    have hpub : ({ b.setSlot b.wr v with wr := slotNext b.wr } : RingBuf).content = b.content ++ [v] := by
      have hadv := content_advance_wr hroom
      rw [content_setSlot_wr h, setSlot_wr, slot_setSlot h, if_pos rfl] at hadv
      exact hadv
    have hall := ih (b := { b.setSlot b.wr v with wr := slotNext b.wr }) (setSlot_wf h _ _) (by
      rw [← content_length, hpub, List.length_append, List.length_singleton, content_length]
      omega)
    rw [hpub, List.append_assoc, List.singleton_append] at hall
    exact hall

/-- The content of a buffer that is not empty: the byte at the read index, then what RB.ADV leaves (R85). -/
theorem content_eq_cons {b : RingBuf} (h : b.rd ≠ b.wr) :
    b.content = b.slot b.rd :: (rbAdv b).content := by
  have hcount : (rbCount b).toNat = (rbCount (rbAdv b)).toNat + 1 := by
    simp only [rbCount, rbAdv_rd, rbAdv_wr, slotNext]; bv_omega
  have htail : slotsFrom b (slotNext b.rd) (rbCount (rbAdv b)).toNat = (rbAdv b).content :=
    slotsFrom_congr fun _ _ => rfl
  rw [RingBuf.content, hcount, slotsFrom, htail]

theorem cmpFrom_eq (b : RingBuf) (j : Slot) (q : ByteSeq) :
    cmpFrom b j q = decide (slotsFrom b (b.rd + j) q.length = q) := by
  induction q generalizing j with
  | nil => rfl
  | cons v rest ih =>
    have hnext : b.rd + (j + 1) = slotNext (b.rd + j) := (BitVec.add_assoc _ _ _).symm
    rw [cmpFrom, ih, hnext, List.length_cons, slotsFrom]
    by_cases hv : b.slot (b.rd + j) = v <;> simp [rbPeek, slotAt, hv]

/-- CM.CMP of a query no longer than the content compares it with the head of the content (R132). -/
theorem cmCmp_eq {b : RingBuf} {q : ByteSeq} (h : q.length ≤ (rbCount b).toNat) :
    cmCmp b q = decide (b.content.take q.length = q) := by
  rw [cmCmp, cmpFrom_eq, RingBuf.content, slotsFrom_take b b.rd h]
  simp

end Sys2Proof.Machine
end

section
/-! PROOFS. Stale bytes are never observed (spec/20_memory.md R46, spec/10_state.md R30). Two states that differ at
most in stale storage are a state and the same state over other buffers of the same content; each operation of a tick
takes such a pair to such a pair, because what it reads of a buffer is its indices, its content, or the byte under
construction, and what it writes it writes alike in both. -/

namespace Sys2Proof.Machine

open Sys2Proof

/-! Two buffers of the same content. -/

/-- Two ring buffers in canonical form that differ at most in stale slots (R46). -/
structure BufTwin (a b : RingBuf) : Prop where
  wr : a.wr = b.wr
  rd : a.rd = b.rd
  content : a.content = b.content
  wfLeft : a.mem.wf = true
  wfRight : b.mem.wf = true

theorem BufTwin.of_sameContent {a b : RingBuf} (h : sameContent a b) (ha : a.mem.wf = true)
    (hb : b.mem.wf = true) : BufTwin a b := by
  obtain ⟨hwr, hrd, hc⟩ := h
  exact ⟨hwr, hrd, hc, ha, hb⟩

theorem BufTwin.sameContent {a b : RingBuf} (h : BufTwin a b) : sameContent a b := ⟨h.wr, h.rd, h.content⟩

theorem BufTwin.count_eq {a b : RingBuf} (h : BufTwin a b) : rbCount a = rbCount b := by
  rw [rbCount, rbCount, h.wr, h.rd]

theorem BufTwin.free_eq {a b : RingBuf} (h : BufTwin a b) : rbFree a = rbFree b := by
  rw [rbFree, rbFree, h.count_eq]

theorem BufTwin.setSlot_wr {a b : RingBuf} (h : BufTwin a b) (v : Byte) :
    BufTwin (a.setSlot a.wr v) (b.setSlot b.wr v) where
  wr := h.wr
  rd := h.rd
  content := by rw [content_setSlot_wr h.wfLeft, content_setSlot_wr h.wfRight, h.content]
  wfLeft := setSlot_wf h.wfLeft _ _
  wfRight := setSlot_wf h.wfRight _ _

theorem BufTwin.commit_accepted {a b : RingBuf} (h : BufTwin a b) : (rbCommit a).2 = (rbCommit b).2 := by
  rw [rbCommit_eq, rbCommit_eq, h.count_eq]
  split <;> rfl

/-- RB.COMMIT makes the byte in the slot at the write index observable: it must be the same byte (R83). -/
theorem BufTwin.commit {a b : RingBuf} (h : BufTwin a b) (hbyte : a.slot a.wr = b.slot b.wr) :
    BufTwin (rbCommit a).1 (rbCommit b).1 := by
  rw [rbCommit_eq, rbCommit_eq, h.count_eq]
  split
  · next hroom => exact {
      wr := congrArg slotNext h.wr
      rd := h.rd
      content := by
        rw [content_advance_wr (h.count_eq ▸ hroom), content_advance_wr hroom, h.content, hbyte]
      wfLeft := h.wfLeft
      wfRight := h.wfRight }
  · exact h

theorem BufTwin.append_accepted {a b : RingBuf} (h : BufTwin a b) (seq : ByteSeq) :
    (rbAppend a seq).2 = (rbAppend b seq).2 := by
  rw [rbAppend, rbAppend, h.free_eq]
  split <;> rfl

theorem BufTwin.append {a b : RingBuf} (h : BufTwin a b) (seq : ByteSeq) :
    BufTwin (rbAppend a seq).1 (rbAppend b seq).1 := by
  have hlt := (rbCount b).isLt
  rw [rbAppend, rbAppend, h.free_eq]
  split
  · next hfit =>
    rw [rbFree_toNat] at hfit
    have hroom : (rbCount b).toNat + seq.length ≤ 15 := by omega
    exact {
      wr := by rw [rbWriteAll_wr, rbWriteAll_wr, h.wr]
      rd := by rw [rbWriteAll_rd, rbWriteAll_rd, h.rd]
      content := by
        rw [content_rbWriteAll h.wfLeft (h.count_eq ▸ hroom), content_rbWriteAll h.wfRight hroom, h.content]
      wfLeft := rbWriteAll_wf h.wfLeft seq
      wfRight := rbWriteAll_wf h.wfRight seq }
  · exact h

/-- The oldest byte and the content behind it are the same in both buffers (R85). -/
theorem BufTwin.oldest_and_adv {a b : RingBuf} (h : BufTwin a b) (hne : a.rd ≠ a.wr) :
    a.slot a.rd = b.slot b.rd ∧ BufTwin (rbAdv a) (rbAdv b) := by
  have hne' : b.rd ≠ b.wr := h.rd ▸ h.wr ▸ hne
  have hcons := (content_eq_cons hne).symm.trans (h.content.trans (content_eq_cons hne'))
  injection hcons with hbyte hrest
  exact ⟨hbyte, h.wr, congrArg slotNext h.rd, hrest, h.wfLeft, h.wfRight⟩

theorem BufTwin.clear {a b : RingBuf} (h : BufTwin a b) : BufTwin (rbClear a) (rbClear b) :=
  ⟨rfl, rfl, ((content_eq_nil_iff _).mpr rfl).trans ((content_eq_nil_iff _).mpr rfl).symm, h.wfLeft, h.wfRight⟩

theorem BufTwin.cmp_eq {a b : RingBuf} (h : BufTwin a b) {q : ByteSeq}
    (hq : q.length ≤ (rbCount b).toNat) : cmCmp a q = cmCmp b q := by
  rw [cmCmp_eq hq, cmCmp_eq (h.count_eq ▸ hq), h.content]

/-! Two states over buffers of the same content. -/

/-- The state over other buffers. -/
def State.withBufs (s : State) (r w : RingBuf) : State := { s with rxb := r, txb := w }

/-- The states that differ from `s` at most in stale storage: `s` over buffers of the same content in canonical
form, in DATA with the same byte under construction (R45, R46). -/
inductive StaleTwin (s : State) : State → Prop where
  | intro (r w : RingBuf) (hr : BufTwin s.rxb r) (hw : BufTwin s.txb w)
      (hbyte : s.rxPhase = .data → s.rxb.slot s.rxb.wr = r.slot r.wr) : StaleTwin s (s.withBufs r w)

theorem eq_withBufs_of_sameButStale {s t : State} (h : sameButStale s t) : t = s.withBufs t.rxb t.txb := by
  obtain ⟨hrest, -⟩ := h
  cases s
  cases t
  simp_all [State.withBufs]

theorem StaleTwin.of_sameButStale {s t : State} (h : sameButStale s t) (hsr : s.rxb.mem.wf = true)
    (hsw : s.txb.mem.wf = true) (htr : t.rxb.mem.wf = true) (htw : t.txb.mem.wf = true) : StaleTwin s t := by
  rw [eq_withBufs_of_sameButStale h]
  obtain ⟨-, hr, hw, hbyte⟩ := h
  exact .intro t.rxb t.txb (.of_sameContent hr hsr htr) (.of_sameContent hw hsw htw) hbyte

theorem StaleTwin.sameButStale {s t : State} (h : StaleTwin s t) : sameButStale s t := by
  obtain ⟨r, w, hr, hw, hbyte⟩ := h
  exact ⟨rfl, hr.sameContent, hw.sameContent, hbyte⟩

theorem StaleTwin.rxb {s t : State} (h : StaleTwin s t) : BufTwin s.rxb t.rxb := by
  obtain ⟨r, w, hr, -, -⟩ := h
  exact hr

theorem StaleTwin.txb {s t : State} (h : StaleTwin s t) : BufTwin s.txb t.txb := by
  obtain ⟨r, w, -, hw, -⟩ := h
  exact hw

/-- Of two such states every field but the buffers is the same: what a function reads elsewhere it reads alike. -/
theorem StaleTwin.field_eq {α : Type} {s t : State} (h : StaleTwin s t) (f : State → α)
    (hf : ∀ u r w, f (State.withBufs u r w) = f u := by intro _ _ _; rfl) : f t = f s := by
  obtain ⟨r, w, -, -, -⟩ := h
  exact hf s r w

/-- An operation that neither reads nor writes a buffer. -/
def IgnoresBufs (f : State → State) : Prop := ∀ s r w, f (State.withBufs s r w) = (f s).withBufs r w

/-- Such an operation keeps two states twins, provided it enters DATA from DATA only. -/
theorem StaleTwin.map {f : State → State} {s t : State} (h : StaleTwin s t)
    (hphase : (f s).rxPhase = .data → s.rxPhase = .data)
    (hf : IgnoresBufs f := by intro _ _ _; rfl) : StaleTwin (f s) (f t) := by
  have hrxb : (f s).rxb = s.rxb := (congrArg State.rxb (hf s s.rxb s.txb) :)
  have htxb : (f s).txb = s.txb := (congrArg State.txb (hf s s.rxb s.txb) :)
  obtain ⟨r, w, hr, hw, hbyte⟩ := h
  rw [hf]
  refine .intro r w ?_ ?_ ?_
  · rwa [hrxb]
  · rwa [htxb]
  · rw [hrxb]; exact hbyte ∘ hphase

theorem emit_twin {s t : State} (h : StaleTwin s t) (e : Event) :
    StaleTwin (State.emit e s) (State.emit e t) :=
  h.map (f := State.emit e) id

/-! The receiver's operations. -/

theorem rxIdle_eq (s : State) :
    rxIdle s = { s with
      rxPhase := if s.rxLast = high ∧ s.sample = low then .start else s.rxPhase
      rxWait := if s.rxLast = high ∧ s.sample = low then Config.startRecheckQuanta else s.rxWait } := by
  unfold rxIdle; split <;> rfl

theorem rxParity_eq (s : State) :
    rxParity s = { s with
      rxPhase := .stop
      rxWait := Config.quantaPerBit
      events := if s.sample = s.rxParity then s.events else s.events ++ [.parity] } := by
  unfold rxParity; split <;> rfl

theorem rxStop_eq (s : State) :
    rxStop s = { s with
      rxPhase := .idle
      rxWait := 0
      events := if s.sample = high then s.events else s.events ++ [.stop] } := by
  unfold rxStop; split <;> rfl

theorem rxIdle_ignoresBufs : IgnoresBufs rxIdle := by
  intro s r w; rw [rxIdle_eq, rxIdle_eq]; rfl

theorem rxParity_ignoresBufs : IgnoresBufs rxParity := by
  intro s r w; rw [rxParity_eq, rxParity_eq]; rfl

theorem rxStop_ignoresBufs : IgnoresBufs rxStop := by
  intro s r w; rw [rxStop_eq, rxStop_eq]; rfl

theorem rxIdle_twin {s t : State} (h : StaleTwin s t) : StaleTwin (rxIdle s) (rxIdle t) := by
  refine h.map ?_ rxIdle_ignoresBufs
  unfold rxIdle
  split
  · nofun
  · exact id

/-- RX.START opens the byte under construction with the same byte, 0, in both (R94). -/
theorem rxStartCommit_twin {s t : State} (h : StaleTwin s t) :
    StaleTwin (rxStartCommit s) (rxStartCommit t) := by
  obtain ⟨r, w, hr, hw, -⟩ := h
  simp only [rxStartCommit, toArm_eq]
  refine .intro (r.setSlot r.wr 0x00) w (hr.setSlot_wr 0x00) hw fun _ => ?_
  simp [slot_setSlot hr.wfLeft, slot_setSlot hr.wfRight]

theorem rxStart_twin {s t : State} (h : StaleTwin s t) : StaleTwin (rxStart s) (rxStart t) := by
  rw [rxStart, rxStart, h.field_eq State.sample]
  split
  · exact rxStartCommit_twin h
  · exact h.map (f := rxStartGlitch) nofun

/-- The byte under construction is the same in both, so it is with one more bit (R95). -/
theorem rxTakeBit_twin {s t : State} (h : StaleTwin s t) (hp : s.rxPhase = .data) :
    StaleTwin (rxTakeBit s) (rxTakeBit t) := by
  rw [rxTakeBit, rxTakeBit, h.field_eq State.sample]
  split
  · obtain ⟨r, w, hr, hw, hbyte⟩ := h
    have hb : s.rxb.slot s.rxb.wr = r.slot r.wr := hbyte hp
    rw [hb]
    refine .intro (r.setSlot r.wr (setDataBit (r.slot r.wr) s.rxBit)) w (hr.setSlot_wr _) hw fun _ => ?_
    simp [slot_setSlot hr.wfLeft, slot_setSlot hr.wfRight]
  · exact h

/-- The byte published, and reported, is the byte under construction (R95). -/
theorem rxFinishByte_twin {s t : State} (h : StaleTwin s t) (hp : s.rxPhase = .data) :
    StaleTwin (rxFinishByte s) (rxFinishByte t) := by
  obtain ⟨r, w, hr, hw, hbyte⟩ := h
  have hb : s.rxb.slot s.rxb.wr = r.slot r.wr := hbyte hp
  rw [rxFinishByte, hb, hr.commit_accepted]
  exact .intro (rbCommit r).1 w (hr.commit hb) hw nofun

theorem rxData_twin {s t : State} (h : StaleTwin s t) (hp : s.rxPhase = .data) :
    StaleTwin (rxData s) (rxData t) := by
  have htake := rxTakeBit_twin h hp
  have hbit := htake.map (f := fun u => { u with rxBit := cursorNext u.rxBit }) id
  refine StaleTwin.map (f := fun u => { u with rxWait := Config.quantaPerBit }) ?_ id
  dsimp only at hbit ⊢
  rw [htake.field_eq State.rxBit] at hbit ⊢
  split
  · exact rxFinishByte_twin hbit ((rxTakeBit_rxPhase s).trans hp)
  · exact hbit

theorem rxDispatch_twin {s t : State} (h : StaleTwin s t) : StaleTwin (rxDispatch s) (rxDispatch t) := by
  have hd : StaleTwin (rxCountDown s) (rxCountDown t) := h.map id
  unfold rxDispatch rxSelected
  rw [hd.field_eq State.rxWait, hd.field_eq State.rxPhase]
  split
  · cases hp : (rxCountDown s).rxPhase with
    | idle => exact rxIdle_twin hd
    | start => exact rxStart_twin hd
    | data => exact rxData_twin hd hp
    | parity => exact hd.map (f := rxParity) nofun rxParity_ignoresBufs
    | stop => exact hd.map (f := rxStop) nofun rxStop_ignoresBufs
  · exact hd

/-! The transmitter's operations. -/

theorem txIdle_twin {s t : State} (h : StaleTwin s t) : StaleTwin (txIdle s) (txIdle t) := by
  rw [txIdle, txIdle, h.txb.rd, h.txb.wr]
  split
  · obtain ⟨r, w, hr, hw, hbyte⟩ := h
    exact .intro r (rbClear w) hr hw.clear hbyte
  · exact h.map (f := fun u => { u with txPhase := .start, txWait := 1 }) id

theorem txFinishByte_twin {s t : State} (h : StaleTwin s t) (hne : s.txb.rd ≠ s.txb.wr) (b : Byte) :
    StaleTwin (txFinishByte b s) (txFinishByte b t) := by
  obtain ⟨r, w, hr, hw, hbyte⟩ := h
  obtain ⟨-, hadv⟩ := hw.oldest_and_adv hne
  exact .intro r (rbAdv w) hr hadv hbyte

/-- What TX.DATA drives for a bit of the byte `b` (R115). -/
def txPutBit (b : Byte) (s : State) : State :=
  { s with
    txLevel := dataBit b s.txBit
    txParity := parityStep s.txParity (dataBit b s.txBit)
    txBit := cursorNext s.txBit }

theorem txData_eq (s : State) :
    txData s =
      let b := s.txb.slot s.txb.rd
      { if cursorNext s.txBit = cursorDone then txFinishByte b (txPutBit b s) else txPutBit b s with
        txWait := Config.quantaPerBit } := rfl

/-- TX.DATA reads the oldest byte of TXB, and that is published (R85, R115). -/
theorem txData_twin {s t : State} (h : StaleTwin s t) (hne : s.txb.rd ≠ s.txb.wr) :
    StaleTwin (txData s) (txData t) := by
  obtain ⟨hold, -⟩ := h.txb.oldest_and_adv hne
  have hput (b : Byte) : StaleTwin (txPutBit b s) (txPutBit b t) := h.map id
  rw [txData_eq, txData_eq, hold, h.field_eq State.txBit]
  refine StaleTwin.map (f := fun u => { u with txWait := Config.quantaPerBit }) ?_ id
  split
  · exact txFinishByte_twin (hput _) hne _
  · exact hput _

/-- The transmitter has a byte wherever its phase needs one: in START and DATA (R85, R115). -/
theorem txHasByte_iff (s : State) :
    txHasByte s = true ↔ (s.txPhase = .start ∨ s.txPhase = .data → s.txb.rd ≠ s.txb.wr) := by
  unfold txHasByte; split <;> simp_all

theorem txDispatch_twin {s t : State} (h : StaleTwin s t) (hbyte : txHasByte s = true) :
    StaleTwin (txDispatch s) (txDispatch t) := by
  have hd : StaleTwin (txCountDown s) (txCountDown t) := h.map id
  unfold txDispatch txSelected
  rw [hd.field_eq State.txWait, hd.field_eq State.txPhase]
  split
  · cases hp : (txCountDown s).txPhase with
    | idle => exact txIdle_twin hd
    | start => exact hd.map (f := txStart) id
    | data => exact txData_twin hd ((txHasByte_iff s).mp hbyte (.inr hp))
    | parity => exact hd.map (f := txParity) id
    | stop => exact hd.map (f := txStop) id
  · exact hd

/-- The transmitter goes to START with a byte in TXB only, and takes the byte it sends out as it leaves DATA (R113,
R115). -/
theorem txSelected_txHasByte {s : State} (h : txHasByte s = true) : txHasByte (txSelected s) = true := by
  unfold txSelected
  split
  · split
    case h_1 hp =>
      unfold txIdle
      split
      · simp [txHasByte_iff, hp]
      · next hne => exact (txHasByte_iff _).mpr fun _ => hne
    case h_2 hp => exact (txHasByte_iff _).mpr fun _ => (txHasByte_iff s).mp h (.inl hp)
    case h_3 hp =>
      rw [txData_eq]
      dsimp only
      split
      · rfl
      · exact (txHasByte_iff _).mpr fun _ => (txHasByte_iff s).mp h (.inr hp)
    case h_4 => rfl
    case h_5 => rfl
  · exact h

theorem txDispatch_txHasByte {s : State} (h : txHasByte s = true) : txHasByte (txDispatch s) = true :=
  txSelected_txHasByte (s := txCountDown s) h

/-! The matcher. -/

theorem cmReply_twin {s t : State} (h : StaleTwin s t) (i : Nat) (q : ByteSeq) :
    StaleTwin (cmReply i q s) (cmReply i q t) := by
  unfold cmReply
  dsimp only
  rw [h.txb.append_accepted q]
  split
  · obtain ⟨r, w, hr, hw, hbyte⟩ := h
    exact .intro r (rbAppend w q).1 hr (hw.append q) hbyte
  · exact emit_twin h _

/-- The scan compares queries with published bytes only, so it ends alike in both (R131, R132). -/
theorem scanFrom_twin {s t : State} (h : StaleTwin s t) (es : List QueryTableEntry) (i : Nat) (c : Bool) :
    (scanFrom i c s es).matched = (scanFrom i c t es).matched ∧
      (scanFrom i c s es).couldMatch = (scanFrom i c t es).couldMatch ∧
      StaleTwin (scanFrom i c s es).state (scanFrom i c t es).state := by
  induction es generalizing i c with
  | nil => exact ⟨rfl, rfl, h⟩
  | cons e rest ih =>
    rw [scanFrom, scanFrom, h.rxb.count_eq]
    split
    · exact ih _ _
    · next hlong =>
      rw [h.rxb.cmp_eq (by omega)]
      split
      · exact ⟨rfl, rfl, cmReply_twin (emit_twin h _) _ _⟩
      · exact ih _ _

theorem clearFor_twin {s t : State} (h : StaleTwin s t) (hp : s.rxPhase = .idle) (e : ClearReason) :
    StaleTwin (clearFor e s) (clearFor e t) := by
  obtain ⟨r, w, hr, hw, -⟩ := h
  cases e <;> exact .intro (rbClear r) w hr.clear hw fun hd => absurd (hp.symm.trans hd) nofun

theorem cmClear_twin {s t : State} (h : StaleTwin s t) (hp : s.rxPhase = .idle) (m c : Bool) :
    StaleTwin (cmClear m c s) (cmClear m c t) := by
  rw [cmClear, cmClear, h.field_eq timeoutExpired]
  split
  · exact h
  · exact clearFor_twin h hp _

theorem cmGate_twin {s t : State} (h : StaleTwin s t) : StaleTwin (cmGate s) (cmGate t) := by
  rw [cmGate, cmGate, h.field_eq State.rxPhase, ← h.rxb.rd, ← h.rxb.wr]
  split
  · next hopen =>
    obtain ⟨hm, hc, hstate⟩ := scanFrom_twin h s.table 0 false
    obtain ⟨⟨-, hphase, -⟩, -⟩ := scanFrom_frame s.table 0 false s
    dsimp only [cmScan]
    rw [h.field_eq State.table, ← hm, ← hc]
    exact cmClear_twin hstate (hphase.trans hopen.1) _ _
  · exact h

theorem cmGate_txHasByte {s : State} (h : txHasByte s = true) : txHasByte (cmGate s) = true := by
  obtain ⟨-, -, -, -, -, -, -, hp, -⟩ := cmGate_frame s
  rw [txHasByte_iff] at h ⊢
  rw [hp]
  exact fun hsends => cmGate_nonempty (h hsends)

/-! The tick. -/

theorem tickSubSteps_twin {s t : State} (h : StaleTwin s t) (hbyte : txHasByte s = true) (x : Level) :
    StaleTwin (tickSubSteps x s) (tickSubSteps x t) ∧ txHasByte (tickSubSteps x s) = true := by
  have h3 : StaleTwin (toTick (txDrive (beginTick x s))) (toTick (txDrive (beginTick x t))) :=
    h.map (f := fun u => toTick (txDrive (beginTick x u))) id
  have h5 := (rxDispatch_twin h3).map (f := rxLatch x) id
  have hbyte5 : txHasByte (rxLatch x (rxDispatch (toTick (txDrive (beginTick x s))))) = true := by
    obtain ⟨-, -, -, hp, -, -, -, htxb, -⟩ := rxDispatch_frame (toTick (txDrive (beginTick x s)))
    simpa [txHasByte, hp, htxb] using hbyte
  exact ⟨cmGate_twin (txDispatch_twin h5 hbyte5), cmGate_txHasByte (txDispatch_txHasByte hbyte5)⟩

/-- A TICK takes twins to twins, whether the core is active or not (R150, R153). -/
theorem execTick_twin {s t s' : State} (h : StaleTwin s t) (hbyte : txHasByte s = true) {x : Level}
    (htick : exec (.tick x) s = .next s') :
    ∃ t', exec (.tick x) t = .next t' ∧ StaleTwin s' t' ∧ txHasByte s' = true := by
  have hact : t.active = s.active := h.field_eq State.active
  rcases execTick_cases htick with ⟨ha, rfl⟩ | ⟨ha, rfl⟩
  · exact ⟨_, execTick_active (hact.trans ha) x, tickSubSteps_twin h hbyte x⟩
  · exact ⟨_, execTick_inactive (hact.trans ha) x, h.map (f := beginTick x) id, hbyte⟩

/-- Settles O58: the states differ at most in stale storage, a tick keeps that, and the pin and the events are among
the fields that are then equal. -/
theorem staleStorageIsNeverObserved : Obligations.StaleStorageIsNeverObserved := by
  unfold Obligations.StaleStorageIsNeverObserved
  intro s t s' x hsr hsw htr htw hbyte hsame htick
  have htwin := StaleTwin.of_sameButStale hsame hsr hsw htr htw
  obtain ⟨t', ht', htwin', hbyte'⟩ := execTick_twin htwin hbyte htick
  exact ⟨t', ht', htwin'.sameButStale, hbyte', (htwin'.field_eq State.txPin).symm,
    (htwin'.field_eq State.events).symm⟩

end Sys2Proof.Machine
end

section
/-! PROOFS. The encodings (spec/30_encoding.md R60, R67, R68, R69): the dispatch word of a condition and a phase
code selects the operation it stands for, and the wire bytes that decode are the encodings of the FRAMEs. -/

namespace Sys2Proof

/-! The dispatch words. -/

@[simp] theorem ofCode_code (p : Phase) : Phase.ofCode p.code = p := by cases p <;> decide

/-- The operation the receiver runs for a condition `z` and a phase code (R68). -/
theorem decodeRxWord_append (z : Bool) (c : BitVec 3) :
    decodeRxWord (BitVec.ofBool z ++ c) = if z then rxAction (Phase.ofCode c) else .rxWait := by
  have hz : (BitVec.ofBool z ++ c).getLsbD 3 = z := by rw [BitVec.getLsbD_append]; simp
  rw [decodeRxWord, hz, BitVec.setWidth_append_eq_right]

/-- The operation the transmitter runs for a condition `z` and a phase code (R68). -/
theorem decodeTxWord_append (z : Bool) (c : BitVec 3) :
    decodeTxWord (BitVec.ofBool z ++ c) = if z then txAction (Phase.ofCode c) else .txWait := by
  have hz : (BitVec.ofBool z ++ c).getLsbD 3 = z := by rw [BitVec.getLsbD_append]; simp
  rw [decodeTxWord, hz, BitVec.setWidth_append_eq_right]

/-- A word in its byte is read back whole (log 10). -/
theorem decodeDispatch_setWidth (select : BitVec 4 → Instr) (w : BitVec 4) :
    decodeDispatch select [w.setWidth 8] = .ok (select w) := by
  have hw : (w.setWidth 8).toNat < 16 := by bv_omega
  rw [decodeDispatch, if_pos hw, BitVec.setWidth_setWidth_of_le _ (by decide), BitVec.setWidth_eq]

theorem decode_receiver_dispatchByte (z : Bool) (p : Phase) :
    decode .receiver [dispatchByte z p] = .ok (if z then rxAction p else .rxWait) := by
  rw [decode, dispatchByte, decodeDispatch_setWidth, dispatchWord, decodeRxWord_append, ofCode_code]

theorem decode_transmitter_dispatchByte (z : Bool) (p : Phase) :
    decode .transmitter [dispatchByte z p] = .ok (if z then txAction p else .txWait) := by
  rw [decode, dispatchByte, decodeDispatch_setWidth, dispatchWord, decodeTxWord_append, ofCode_code]

/-! The wire frame. -/

/-- Bit `k` of a frame's word is the level of bit period `k`; above period 10 there is none (R60, R41). -/
theorem getLsbD_frameWord (b : Byte) (p : Level) (k : Nat) :
    (frameWord b p).getLsbD k =
      if k = 0 then low else if k ≤ 8 then b.getLsbD (k - 1) else if k = 9 then p else decide (k = 10) := by
  simp only [frameWord, BitVec.getLsbD_setWidth, BitVec.getLsbD_append, BitVec.getLsbD_ofBool]
  grind

theorem frameWord_toNat_lt (b : Byte) (p : Level) : (frameWord b p).toNat < 2048 := by
  refine Nat.lt_pow_two_of_testBit (n := 11) _ fun k hk => ?_
  rw [BitVec.testBit_toNat, getLsbD_frameWord]
  grind

/-- A word with start 0, stop 1 and nothing above period 10 is the frame of its data and parity bits (R60). -/
theorem eq_frameWord {w : BitVec 16} (hwide : w.toNat < 2048) (hstart : w.getLsbD 0 = low)
    (hstop : w.getLsbD 10 = high) : w = frameWord (w.extractLsb' 1 8) (w.getLsbD 9) := by
  refine BitVec.eq_of_getLsbD_eq fun k hk => ?_
  have habove (h : 11 ≤ k) : w.getLsbD k = false := by
    rw [← BitVec.testBit_toNat]
    exact Nat.testBit_lt_two_pow (hwide.trans_le (Nat.pow_le_pow_right (n := 2) (by decide) h))
  rw [getLsbD_frameWord]
  grind

/-- The words that decode are the frames' (R60). -/
theorem decodeFrameWord_eq_ok_iff {w : BitVec 16} {i : Instr} :
    decodeFrameWord w = .ok i ↔ ∃ b p, i = .frame b p ∧ w = frameWord b p := by
  constructor
  · intro h
    unfold decodeFrameWord at h
    split_ifs at h with hwide hstart hstop
    cases h
    exact ⟨_, _, rfl, eq_frameWord (by omega) (by simpa using hstart) hstop⟩
  · rintro ⟨b, p, rfl, rfl⟩
    have hdata : (frameWord b p).extractLsb' 1 8 = b := by
      refine BitVec.eq_of_getLsbD_eq fun k hk => ?_
      rw [BitVec.getLsbD_extractLsb', getLsbD_frameWord]
      grind
    have hwide := frameWord_toNat_lt b p
    rw [decodeFrameWord, if_neg (by omega), getLsbD_frameWord, getLsbD_frameWord, getLsbD_frameWord, hdata]
    rfl

/-- Two bytes make up a word iff they are its low and its high byte (log 10). -/
theorem append_bytes_eq_iff (v0 v1 : Byte) (w : BitVec 16) :
    v1 ++ v0 = w ↔ v0 = w.extractLsb' 0 8 ∧ v1 = w.extractLsb' 8 8 := by
  constructor
  · rintro rfl
    exact ⟨by rw [BitVec.extractLsb'_append_eq_of_add_le (by decide), BitVec.extractLsb'_eq_self],
      by rw [BitVec.extractLsb'_append_eq_of_le (by decide), BitVec.extractLsb'_eq_self]⟩
  · rintro ⟨rfl, rfl⟩
    exact (BitVec.extractLsb'_append_extractLsb'_eq_extractLsb' (by decide)).trans BitVec.extractLsb'_eq_self

/-- On the wire the bytes that decode are the encodings of the FRAMEs, and no others (R60). -/
theorem decode_wire_eq_ok_iff {bs : List Byte} {i : Instr} :
    decode .wire bs = .ok i ↔ (∃ b p, i = .frame b p) ∧ encode i = some (.wire, bs) := by
  constructor
  · intro h
    match bs, h with
    | [v0, v1], h =>
      obtain ⟨b, p, rfl, hw⟩ := decodeFrameWord_eq_ok_iff.mp h
      obtain ⟨rfl, rfl⟩ := (append_bytes_eq_iff v0 v1 _).mp hw
      exact ⟨⟨b, p, rfl⟩, rfl⟩
  · rintro ⟨⟨b, p, rfl⟩, h⟩
    cases h
    exact decodeFrameWord_eq_ok_iff.mpr ⟨b, p, rfl, (append_bytes_eq_iff _ _ _).mpr ⟨rfl, rfl⟩⟩

/-- Settles O2: a dispatch word decodes to the operation of its condition and phase, a frame's bytes to the FRAME, and
every other operation has no encoding. -/
theorem decodeOfEncodeIsTheInstruction : Obligations.DecodeOfEncodeIsTheInstruction := by
  unfold Obligations.DecodeOfEncodeIsTheInstruction
  rintro i sp bs - h
  cases i
  case rxWait => cases h; exact decode_receiver_dispatchByte false .idle
  case rxIdle => cases h; exact decode_receiver_dispatchByte true .idle
  case rxStart => cases h; exact decode_receiver_dispatchByte true .start
  case rxData => cases h; exact decode_receiver_dispatchByte true .data
  case rxParity => cases h; exact decode_receiver_dispatchByte true .parity
  case rxStop => cases h; exact decode_receiver_dispatchByte true .stop
  case txWait => cases h; exact decode_transmitter_dispatchByte false .idle
  case txIdle => cases h; exact decode_transmitter_dispatchByte true .idle
  case txStart => cases h; exact decode_transmitter_dispatchByte true .start
  case txData => cases h; exact decode_transmitter_dispatchByte true .data
  case txParity => cases h; exact decode_transmitter_dispatchByte true .parity
  case txStop => cases h; exact decode_transmitter_dispatchByte true .stop
  case frame b p => cases h; exact decode_wire_eq_ok_iff.mpr ⟨⟨b, p, rfl⟩, rfl⟩
  all_goals cases h

/-- Settles O3, from the bytes that decode on the wire. -/
theorem encodeOfDecodedFrameIsTheFrame : Obligations.EncodeOfDecodedFrameIsTheFrame := by
  unfold Obligations.EncodeOfDecodedFrameIsTheFrame
  intro bs i h
  exact (decode_wire_eq_ok_iff.mp h).symm

/-- Settles O1: the decoder evaluated on each of the written words. -/
theorem writtenWordsDecode : Obligations.WrittenWordsDecode := by
  unfold Obligations.WrittenWordsDecode
  exact ⟨by decide, by decide, by decide, by decide, by decide, by decide⟩

/-- Settles O4, from the bits of a frame's word. -/
theorem frameWordHoldsTheBitPeriods : Obligations.FrameWordHoldsTheBitPeriods := by
  unfold Obligations.FrameWordHoldsTheBitPeriods
  intro b p
  refine ⟨?_, fun k => ?_, ?_, ?_⟩ <;> rw [getLsbD_frameWord]
  · rfl
  · have hk : k.val + 1 ≤ 8 := k.isLt
    simp [hk]
  · rfl
  · rfl

end Sys2Proof
end

section
/-! PROOFS. What the encodings mean to the machine (spec/30_encoding.md R62, R65, R72): the parity of a byte, the levels
a frame expands to, and the known entry. -/

namespace Sys2Proof.Machine

open Sys2Proof

/-! The parity of a byte. -/

/-- The accumulator, stepped over a list of levels, is toggled once per high level (R62, R87 (c)). -/
theorem foldl_parityStep (f : Nat → Level) (ks : List Nat) (acc : Level) :
    ks.foldl (fun a k => parityStep a (f k)) acc = xor acc (decide ((ks.filter f).length % 2 = 1)) := by
  induction ks generalizing acc with
  | nil => simp
  | cons k rest ih =>
    rw [List.foldl_cons, ih, List.filter_cons]
    cases f k with
    | false => simp [parityStep]
    | true =>
      rcases Nat.mod_two_eq_zero_or_one (rest.filter f).length with hn | hn <;>
        simp [parityStep, Nat.succ_mod_two_eq_one_iff, hn]

/-- `P(b)` is the accumulator over the data bits, least significant first (R62). -/
theorem evenParity_eq_foldl (b : Byte) :
    evenParity b = (List.range 8).foldl (fun acc k => parityStep acc (b.getLsbD k)) parityClear := by
  simp [evenParity, parityStep, parityClear, List.range_succ]

/-- Settles O5: the fold over the eight data bits is `P(b)`, and it is toggled once per high bit. -/
theorem evenParityIsOddOnes : Obligations.EvenParityIsOddOnes := by
  unfold Obligations.EvenParityIsOddOnes
  refine fun b => ⟨?_, evenParity_eq_foldl b⟩
  rw [evenParity_eq_foldl, foldl_parityStep]
  simp [parityClear]

/-! The two data formats. -/

/-- Levels held for `n` ticks each: tick `k` shows period `k / n` (R61). -/
theorem getElem?_flatMap_replicate {α : Type} {n : Nat} (hn : 0 < n) (xs : List α) (k : Nat) :
    (xs.flatMap (List.replicate n))[k]? = xs[k / n]? := by
  induction xs generalizing k with
  | nil => rfl
  | cons x rest ih =>
    rw [List.flatMap_cons, List.getElem?_append, List.length_replicate]
    split
    · next hk => simp [hk, Nat.div_eq_of_lt hk]
    · next hk => rw [ih, ← List.getElem?_cons_succ, ← Nat.div_eq_sub_div hn (not_lt.mp hk)]

/-- FRAME's levels are the eleven bit periods of its word, four ticks each (R60, R61, R72). -/
theorem stimFrame_eq_flatMap (b : Byte) (p : Level) :
    stimFrame b p high 4 = ((List.range 11).map (frameWord b p).getLsbD).flatMap (List.replicate 4) := by
  have hperiods : (List.range 11).map (frameWord b p).getLsbD = framePeriods b p ++ [high] :=
    List.map_congr_left fun k _ => getLsbD_frameWord b p k
  rw [hperiods, List.flatMap_append]
  rfl

/-- Settles O51: the levels are those of `stimFrame`, whose tick `k` lies in bit period `k / 4`. -/
theorem frameExpandsToItsLevels : Obligations.FrameExpandsToItsLevels := by
  unfold Obligations.FrameExpandsToItsLevels
  intro s b p
  refine ⟨stimFrame b p high 4, exec_frame b p s, rfl, fun k hk => ?_⟩
  have hperiod : k / 4 < 11 := by omega
  rw [stimFrame_eq_flatMap, getElem?_flatMap_replicate (by decide)]
  simp [hperiod]

/-- Settles O52: that is ENTRY.KNOWN's meaning, and both sequences of the pair have 1 to 5 bytes. -/
theorem knownEntryIsLoaded : Obligations.KnownEntryIsLoaded := by
  unfold Obligations.KnownEntryIsLoaded
  exact ⟨exec_entryKnown, by decide⟩

end Sys2Proof.Machine
end

section
/-! PROOFS. The ring buffer operations invoked by name (spec/40_ring_buffer.md R80 to R86): what each answers, and the
content of the buffer it leaves. -/

namespace Sys2Proof.Machine

open Sys2Proof

/-! The buffer an operand names. -/

@[simp] theorem setBuf_buf (s : State) (b : Buf) : s.setBuf b (s.buf b) = s := by cases b <;> rfl

@[simp] theorem buf_setBuf_with_ret (s : State) (b : Buf) (v : RingBuf) (r : Ret) :
    ({ s.setBuf b v with ret := r } : State).buf b = v := by cases b <;> rfl

/-! Count and content. -/

/-- The count is the difference of the indices modulo 16 (R80). -/
theorem rbCount_toNat (b : RingBuf) : (rbCount b).toNat = (b.wr.toNat + 16 - b.rd.toNat) % 16 := by
  unfold rbCount; bv_omega

theorem rbCount_le (b : RingBuf) : (rbCount b).toNat ≤ 15 := Nat.le_of_lt_succ (rbCount b).isLt

theorem getElem?_slotsFrom (b : RingBuf) (i : Slot) {k n : Nat} (h : k < n) :
    (slotsFrom b i n)[k]? = some (b.slot (i + BitVec.ofNat 4 k)) := by
  obtain ⟨d, rfl⟩ := Nat.exists_eq_add_of_lt h
  rw [Nat.add_assoc, slotsFrom_add, List.getElem?_append_right (slotsFrom_length b i k).le, slotsFrom_length,
    Nat.sub_self]
  rfl

/-- RB.PEEK below the count reads the content (R82). -/
theorem getElem?_content {b : RingBuf} {j : Slot} (h : j.toNat < (rbCount b).toNat) :
    b.content[j.toNat]? = some (rbPeek b j) := by
  rw [RingBuf.content, getElem?_slotsFrom b b.rd h, BitVec.ofNat_toNat, BitVec.setWidth_eq]
  rfl

/-! What the operations that can refuse or reject answer. -/

theorem exec_rbPeek_of_lt {s : State} {b : Buf} {j : Slot} (h : j.toNat < (rbCount (s.buf b)).toNat) :
    exec (.rbPeek b j) s = .next { s with ret := .byte (rbPeek (s.buf b) j) } := if_pos h

theorem exec_rbPeek_of_le {s : State} {b : Buf} {j : Slot} (h : (rbCount (s.buf b)).toNat ≤ j.toNat) :
    exec (.rbPeek b j) s = .refused .peekBeyondContent := if_neg (Nat.not_lt.mpr h)

theorem exec_rbAdv_of_nonempty {s : State} {b : Buf} (h : (s.buf b).rd ≠ (s.buf b).wr) :
    exec (.rbAdv b) s = .next (s.setBuf b (rbAdv (s.buf b))) := if_neg (mt (rbCount_eq_zero _).mp h)

theorem exec_rbAdv_of_empty {s : State} {b : Buf} (h : (s.buf b).rd = (s.buf b).wr) :
    exec (.rbAdv b) s = .refused .advOnEmpty := if_pos ((rbCount_eq_zero _).mpr h)

theorem exec_rbCommit_of_lt {s : State} {b : Buf} (h : (rbCount (s.buf b)).toNat < 15) :
    exec (.rbCommit b) s =
      .next { s.setBuf b { s.buf b with wr := slotNext (s.buf b).wr } with ret := .accepted true } := by
  rw [exec_rbCommit, execRbCommit, rbCommit_eq, if_pos h]

theorem exec_rbCommit_of_full {s : State} {b : Buf} (h : (rbCount (s.buf b)).toNat = 15) :
    exec (.rbCommit b) s = .next { s with ret := .accepted false } := by
  rw [exec_rbCommit, execRbCommit, rbCommit_eq, if_neg h.not_lt, setBuf_buf]

theorem exec_rbAppend_of_fit {s : State} {b : Buf} {seq : ByteSeq} (h : seq.length ≤ (rbFree (s.buf b)).toNat) :
    exec (.rbAppend b seq) s = .next { s.setBuf b (rbWriteAll (s.buf b) seq) with ret := .accepted true } := by
  rw [exec_rbAppend, execRbAppend, rbAppend, if_pos h]

theorem exec_rbAppend_of_not_fit {s : State} {b : Buf} {seq : ByteSeq}
    (h : (rbFree (s.buf b)).toNat < seq.length) :
    exec (.rbAppend b seq) s = .next { s with ret := .accepted false } := by
  rw [exec_rbAppend, execRbAppend, rbAppend_of_not_fit h, setBuf_buf]

/-! The obligations. -/

/-- Settles O20: the content has as many bytes as the count says, and RB.PEEK reads the `j`-th of them. -/
theorem rbPeekReadsOrRefuses : Obligations.RbPeekReadsOrRefuses := by
  unfold Obligations.RbPeekReadsOrRefuses
  intro s b j
  rw [content_length]
  exact ⟨fun hlt => ⟨_, exec_rbPeek_of_lt hlt, rfl, getElem?_content hlt⟩, exec_rbPeek_of_le⟩

/-- Settles O21: advancing the write index of a buffer with room puts the byte of its slot behind the content. -/
theorem rbCommitPublishesOrRejects : Obligations.RbCommitPublishesOrRejects := by
  unfold Obligations.RbCommitPublishesOrRejects
  intro s b
  rw [content_length]
  refine ⟨fun hroom => ⟨_, exec_rbCommit_of_lt hroom, rfl, ?_⟩, exec_rbCommit_of_full⟩
  rw [buf_setBuf_with_ret, content_advance_wr hroom]

/-- Settles O22: a sequence that fits is written from the write index on, which leaves the other slots; one that does
not fit is not written. -/
theorem rbAppendIsWholeOrNothing : Obligations.RbAppendIsWholeOrNothing := by
  unfold Obligations.RbAppendIsWholeOrNothing
  intro s b seq _ hmem
  rw [content_length, ← rbFree_toNat]
  refine ⟨fun hfit => ⟨_, exec_rbAppend_of_fit hfit, ?_⟩, exec_rbAppend_of_not_fit⟩
  have hroom : (rbCount (s.buf b)).toNat + seq.length ≤ 15 := by
    have hle := rbCount_le (s.buf b)
    rw [rbFree_toNat] at hfit
    omega
  rw [buf_setBuf_with_ret]
  exact ⟨rfl, content_rbWriteAll hmem hroom, rbWriteAll_rd _ _, rbWriteAll_wr _ _,
    rbWriteAll_slot_other hmem seq⟩

/-- Settles O23: the content of a buffer that is not empty is its oldest byte and what RB.ADV leaves. -/
theorem rbAdvConsumesTheOldestByte : Obligations.RbAdvConsumesTheOldestByte := by
  unfold Obligations.RbAdvConsumesTheOldestByte
  intro s b
  rw [ne_eq, content_eq_nil_iff]
  refine ⟨fun hne => ⟨_, exec_rbAdv_of_nonempty hne, rfl, ?_⟩, exec_rbAdv_of_empty⟩
  rw [buf_setBuf_same, content_eq_cons hne]

/-- Settles O19: both numbers are read from the indices and stand in `ret`. -/
theorem countAndFreeAreReturned : Obligations.CountAndFreeAreReturned := by
  unfold Obligations.CountAndFreeAreReturned
  exact fun s b => ⟨rbCount (s.buf b), rbFree (s.buf b), rfl, rbCount_toNat _, rbCount_eq_zero _, rfl,
    rbFree_toNat _⟩

/-- Settles O24: RB.CLEAR writes the indices only, and a buffer with equal indices has no content. -/
theorem rbClearEmptiesAndKeepsTheStorage : Obligations.RbClearEmptiesAndKeepsTheStorage := by
  unfold Obligations.RbClearEmptiesAndKeepsTheStorage
  refine fun s b => ⟨s.setBuf b (rbClear (s.buf b)), rfl, rfl, ?_⟩
  rw [buf_setBuf_same]
  exact ⟨(content_eq_nil_iff _).mpr rfl, rbClear_slot _⟩

end Sys2Proof.Machine
end

section
/-! PROOFS. The receiver's dispatch and its phase actions (spec/41_receiver.md R90 to R97): each operation as one update
of the state, and what it leaves in RXB. -/

namespace Sys2Proof.Machine

open Sys2Proof

/-! The dispatch. -/

/-- A wait of 2 or more only counts down (R90). -/
theorem rxDispatch_of_waits {s : State} (h : 2 ≤ s.rxWait.toNat) :
    rxDispatch s = { s with rxWait := s.rxWait - 1 } := by
  have hne : s.rxWait ≠ 0 := by bv_omega
  have hleft : s.rxWait - 1 ≠ 0 := by bv_omega
  rw [rxDispatch, rxCountDown, countDown_of_ne_zero hne, rxSelected, if_neg hleft]
  rfl

/-- A wait of 0 or 1 lets the phase action run, with the wait 0 (R90). -/
theorem rxDispatch_of_acts {s : State} (h : s.rxWait.toNat ≤ 1) :
    rxDispatch s = rxSelected { s with rxWait := 0 } := by
  have hzero : countDown s.rxWait = 0 := by
    apply BitVec.eq_of_toNat_eq
    rw [countDown_toNat]
    exact Nat.sub_eq_zero_of_le h
  rw [rxDispatch, rxCountDown, hzero]

/-- The phase action is the operation that the phase names (R68, R90). -/
theorem exec_rxAction {s : State} (h : s.rxWait = 0) : exec (rxAction s.rxPhase) s = .next (rxSelected s) := by
  rw [rxSelected, if_pos h]
  cases s.rxPhase <;> rfl

/-! RX.START. -/

/-- The commit of a start bit as one update (R94, R135). -/
theorem rxStartCommit_eq (s : State) :
    rxStartCommit s = { s with
      rxPhase := .data
      rxParity := low
      rxBit := 0x01
      rxTimeout := if s.rxTimeout = 0 then 480 else s.rxTimeout
      rxWait := 4
      rxb := s.rxb.setSlot s.rxb.wr 0x00 } := by
  rw [rxStartCommit, toArm_eq]; rfl

/-! RX.DATA. -/

/-- The byte under construction once the sample is taken (R63, R95). -/
def rxTakenByte (s : State) : Byte :=
  if s.rxIn = high then s.rxb.slot s.rxb.wr ||| s.rxBit else s.rxb.slot s.rxb.wr

/-- RXB once the sample is taken: a low one writes nothing (R95). -/
def rxTakenBuf (s : State) : RingBuf :=
  if s.rxIn = high then s.rxb.setSlot s.rxb.wr (rxTakenByte s) else s.rxb

theorem rxTakeBit_eq (s : State) :
    rxTakeBit s = { s with rxb := rxTakenBuf s, rxParity := xor s.rxParity s.rxIn } := by
  rw [rxTakeBit, sample_eq_rxIn, rxTakenBuf, rxTakenByte]
  split
  · next hhigh => rw [hhigh]; rfl
  · next hlow =>
    have hparity : xor s.rxParity s.rxIn = s.rxParity := by
      rw [Bool.eq_false_of_not_eq_true hlow, Bool.xor_false]
    rw [hparity]

@[simp] theorem rxTakenBuf_wr (s : State) : (rxTakenBuf s).wr = s.rxb.wr := by
  unfold rxTakenBuf; split <;> rfl

@[simp] theorem rxTakenBuf_rd (s : State) : (rxTakenBuf s).rd = s.rxb.rd := by
  unfold rxTakenBuf; split <;> rfl

@[simp] theorem rxTakenBuf_count (s : State) : rbCount (rxTakenBuf s) = rbCount s.rxb := by
  simp [rbCount]

/-- Only the slot at the write index changes, and holds the byte with the sample taken (R95). -/
theorem rxTakenBuf_slot {s : State} (h : s.rxb.mem.wf = true) (a : Slot) :
    (rxTakenBuf s).slot a = if a = s.rxb.wr then rxTakenByte s else s.rxb.slot a := by
  unfold rxTakenBuf
  split
  · exact slot_setSlot h _ _ _
  · next hlow =>
    rw [rxTakenByte, if_neg hlow]
    split
    · next ha => rw [ha]
    · rfl

theorem rxTakenBuf_slot_wr {s : State} (h : s.rxb.mem.wf = true) :
    (rxTakenBuf s).slot (rxTakenBuf s).wr = rxTakenByte s := by
  rw [rxTakenBuf_slot h, if_pos (rxTakenBuf_wr s)]

theorem rxTakenBuf_content {s : State} (h : s.rxb.mem.wf = true) : (rxTakenBuf s).content = s.rxb.content := by
  unfold rxTakenBuf
  split
  · exact content_setSlot_wr h _
  · rfl

/-- RX.DATA before the eighth bit, as one update (R95). -/
theorem rxData_of_more {s : State} (h : cursorNext s.rxBit ≠ cursorDone) :
    rxData s = { s with
      rxb := rxTakenBuf s
      rxParity := xor s.rxParity s.rxIn
      rxBit := cursorNext s.rxBit
      rxWait := 4 } := by
  simp only [rxData, rxTakeBit_eq, if_neg h]
  rfl

/-- RX.DATA at the eighth bit, as one update (R95, R175). -/
theorem rxData_of_done {s : State} (hmem : s.rxb.mem.wf = true) (h : cursorNext s.rxBit = cursorDone) :
    rxData s = { s with
      rxb := (rbCommit (rxTakenBuf s)).1
      rxParity := xor s.rxParity s.rxIn
      rxBit := cursorNext s.rxBit
      rxPhase := .parity
      rxWait := 4
      events := s.events ++ [if (rbCount s.rxb).toNat < 15 then .rxByte (rxTakenByte s) else .rxOverflow] } := by
  have haccepted : (rbCommit (rxTakenBuf s)).2 = decide ((rbCount s.rxb).toNat < 15) := by
    rw [rbCommit_eq, rxTakenBuf_count]
    split <;> simp_all
  simp only [rxData, rxTakeBit_eq, if_pos h, rxFinishByte, rxTakenBuf_slot_wr hmem, haccepted, decide_eq_true_eq]
  rfl

/-! The obligations. -/

/-- Settles O9: the decrement leaves a wait of 2 or more above 0, and takes 1 and 0 to 0. -/
theorem receiverDispatchWaitsThenActs : Obligations.ReceiverDispatchWaitsThenActs := by
  unfold Obligations.ReceiverDispatchWaitsThenActs
  refine fun s => ⟨rxDispatch_of_waits, fun h => ?_⟩
  rw [rxDispatch_of_acts h]
  exact exec_rxAction (s := { s with rxWait := 0 }) rfl

/-- Settles O26: both operations are the identity. -/
theorem waitOperationsChangeNothing : Obligations.WaitOperationsChangeNothing := by
  unfold Obligations.WaitOperationsChangeNothing
  exact fun s => ⟨exec_rxWait s, exec_txWait s⟩

/-- Settles O27: the two branches of RX.IDLE. -/
theorem rxIdleStartsOnlyOnAFallingEdge : Obligations.RxIdleStartsOnlyOnAFallingEdge := by
  unfold Obligations.RxIdleStartsOnlyOnAFallingEdge
  intro s
  rw [exec_rxIdle, execRxIdle, rxIdle, sample_eq_rxIn]
  constructor
  · intro hedge; rw [if_pos hedge]; rfl
  · intro hnone; rw [if_neg hnone]

/-- Settles O28: the two branches of RX.START; a write to the slot at the write index leaves the others. -/
theorem rxStartCommitsOrDismisses : Obligations.RxStartCommitsOrDismisses := by
  unfold Obligations.RxStartCommitsOrDismisses
  intro s hmem
  rw [exec_rxStart, execRxStart, rxStart, sample_eq_rxIn]
  constructor
  · intro hlow
    rw [if_pos hlow, rxStartCommit_eq]
    exact ⟨_, rfl, rfl, rfl, rfl, fun a => slot_setSlot hmem _ a _⟩
  · intro hhigh
    rw [if_neg (by simp [hhigh])]
    rfl

/-- Settles O29: the sample is taken in the slot at the write index, and the eighth bit commits the byte if there is
room. -/
theorem rxDataTakesOneBit : Obligations.RxDataTakesOneBit := by
  unfold Obligations.RxDataTakesOneBit
  intro s hmem
  rw [content_length]
  intro v done room
  refine ⟨rxData s, rfl, ?_⟩
  by_cases hdone : done
  · rw [rxData_of_done hmem hdone]
    simp only [hdone, true_and]
    refine ⟨rfl, (rbCommit_mem_rd _).2.trans (rxTakenBuf_rd s), ?_, fun a => ?_⟩
    · rw [rbCommit_eq, rxTakenBuf_count]
      split
      · exact congrArg slotNext (rxTakenBuf_wr s)
      · exact rxTakenBuf_wr s
    · exact (rbCommit_slot _ a).trans (rxTakenBuf_slot hmem a)
  · rw [rxData_of_more hdone]
    simp only [hdone, false_and, if_false, List.append_nil]
    exact ⟨rfl, rxTakenBuf_rd s, rxTakenBuf_wr s, rxTakenBuf_slot hmem⟩

/-- Settles O30: the parity check as one update. -/
theorem rxParityOnlyReportsAMismatch : Obligations.RxParityOnlyReportsAMismatch := by
  unfold Obligations.RxParityOnlyReportsAMismatch
  exact fun s => congrArg Host.Outcome.next (rxParity_eq s)

/-- Settles O31: the stop check as one update. -/
theorem rxStopOnlyReportsALowStop : Obligations.RxStopOnlyReportsALowStop := by
  unfold Obligations.RxStopOnlyReportsALowStop
  exact fun s => congrArg Host.Outcome.next (rxStop_eq s)

/-- Settles O32: the two operations are these updates. -/
theorem latchAndDriveCopyOneLevel : Obligations.LatchAndDriveCopyOneLevel := by
  unfold Obligations.LatchAndDriveCopyOneLevel
  exact fun s x => ⟨exec_rxLatch x s, exec_txDrive s⟩

end Sys2Proof.Machine
end

section
/-! PROOFS. A tick as the receiver sees it (spec/44_protocol_loop.md R150, R151), runs of ticks (R154), and the timeline
of a frame (spec/41_receiver.md R98): once committed, a frame's phases, waits and cursors are those of its tick. -/

namespace Sys2Proof.Machine

open Sys2Proof

/-! Runs of ticks of an active core. -/

/-- The state after a tick for each level of a trace. -/
def afterTicks (xs : List Level) (s : State) : State := xs.foldl (fun t x => tickSubSteps x t) s

@[simp] theorem afterTicks_nil (s : State) : afterTicks [] s = s := rfl

@[simp] theorem afterTicks_cons (x : Level) (xs : List Level) (s : State) :
    afterTicks (x :: xs) s = afterTicks xs (tickSubSteps x s) := by
  rw [afterTicks, List.foldl_cons, afterTicks]

theorem afterTicks_append (xs ys : List Level) (s : State) :
    afterTicks (xs ++ ys) s = afterTicks ys (afterTicks xs s) := by
  rw [afterTicks, List.foldl_append, afterTicks, afterTicks]

/-- The tick with the level at place `n` of a trace follows the ticks before it. -/
theorem afterTicks_take_succ {xs : List Level} {n : Nat} {x : Level} (h : xs[n]? = some x) (s : State) :
    afterTicks (xs.take (n + 1)) s = tickSubSteps x (afterTicks (xs.take n) s) := by
  rw [List.take_add_one, h, afterTicks_append, Option.toList_some, afterTicks_cons, afterTicks_nil]

@[simp] theorem tickSubSteps_active (x : Level) (s : State) : (tickSubSteps x s).active = s.active := by
  obtain ⟨-, -, -, -, hact, -⟩ := tickSubSteps_frame x s
  exact hact

@[simp] theorem tickSubSteps_rxLast (x : Level) (s : State) : (tickSubSteps x s).rxLast = x := by
  obtain ⟨hlast, -⟩ := tickSubSteps_frame x s
  exact hlast

@[simp] theorem tickSubSteps_txPin (x : Level) (s : State) : (tickSubSteps x s).txPin = s.txLevel := by
  obtain ⟨-, -, hpin, -⟩ := tickSubSteps_frame x s
  exact hpin

@[simp] theorem afterTicks_active (xs : List Level) (s : State) : (afterTicks xs s).active = s.active := by
  induction xs generalizing s with
  | nil => rfl
  | cons x rest ih => rw [afterTicks_cons, ih, tickSubSteps_active]

theorem afterTicks_inv {s : State} (h : Inv s) (xs : List Level) : Inv (afterTicks xs s) := by
  induction xs generalizing s with
  | nil => exact h
  | cons x rest ih =>
    rw [afterTicks_cons]
    exact ih (tickSubSteps_inv h x)

/-- The run of an active core over a trace (R154, R155). -/
theorem runTrace_eq {s : State} (ha : s.active = true) (xs : List Level) :
    runTrace xs s = .next (afterTicks xs s) := by
  induction xs generalizing s with
  | nil => rfl
  | cons x rest ih =>
    rw [runTrace, exec_tick, execTick_active ha, afterTicks_cons]
    exact ih (by rw [tickSubSteps_active, ha])

/-! The receiver's part of a tick. -/

/-- The state once the receiver has had its turn: sub-steps 1 to 4 of TICK (R150). -/
def received (x : Level) (s : State) : State := rxDispatch (toTick (txDrive (beginTick x s)))

theorem tickSubSteps_eq (x : Level) (s : State) :
    tickSubSteps x s = cmGate (txDispatch (rxLatch x (received x s))) := rfl

/-- Where the gate is closed the matcher does nothing (R130). -/
theorem cmGate_of_closed {s : State} (h : s.rxPhase ≠ .idle ∨ s.rxb.rd = s.rxb.wr) : cmGate s = s := by
  unfold cmGate
  rw [if_neg (by tauto)]

/-- What the receiver leaves in its registers the rest of the tick leaves (R151). -/
theorem tick_receiver_eq (x : Level) (s : State) :
    (tickSubSteps x s).rxPhase = (received x s).rxPhase ∧ (tickSubSteps x s).rxWait = (received x s).rxWait ∧
      (tickSubSteps x s).rxBit = (received x s).rxBit ∧ (tickSubSteps x s).rxParity = (received x s).rxParity := by
  obtain ⟨-, hp, hw, hb, ha, -⟩ := txDispatch_frame (rxLatch x (received x s))
  obtain ⟨-, hp', hw', hb', ha', -⟩ := cmGate_frame (txDispatch (rxLatch x (received x s)))
  exact ⟨hp'.trans hp, hw'.trans hw, hb'.trans hb, ha'.trans ha⟩

@[simp] theorem tick_rxPhase (x : Level) (s : State) : (tickSubSteps x s).rxPhase = (received x s).rxPhase :=
  (tick_receiver_eq x s).1

/-- What the receiver leaves in RXB the tick leaves, unless the gate opens on it (R130, R151). -/
theorem tick_rxb {x : Level} {s : State}
    (h : (received x s).rxPhase ≠ .idle ∨ (received x s).rxb.rd = (received x s).rxb.wr) :
    (tickSubSteps x s).rxb = (received x s).rxb := by
  obtain ⟨-, hp, -, -, -, -, -, hb, -⟩ := txDispatch_frame (rxLatch x (received x s))
  rw [tickSubSteps_eq, cmGate_of_closed (by rw [hp, hb]; exact h), hb]
  rfl

/-- The state in which the receiver's phase action runs: the sample taken, the wait 0 (R90). -/
def opened (x : Level) (s : State) : State := { toTick (txDrive (beginTick x s)) with rxWait := 0 }

@[simp] theorem opened_rxIn (x : Level) (s : State) : (opened x s).rxIn = x := rfl
@[simp] theorem opened_rxLast (x : Level) (s : State) : (opened x s).rxLast = s.rxLast := rfl
@[simp] theorem opened_rxPhase (x : Level) (s : State) : (opened x s).rxPhase = s.rxPhase := rfl
@[simp] theorem opened_rxWait (x : Level) (s : State) : (opened x s).rxWait = 0 := rfl
@[simp] theorem opened_rxBit (x : Level) (s : State) : (opened x s).rxBit = s.rxBit := rfl
@[simp] theorem opened_rxParity (x : Level) (s : State) : (opened x s).rxParity = s.rxParity := rfl
@[simp] theorem opened_rxb (x : Level) (s : State) : (opened x s).rxb = s.rxb := rfl
@[simp] theorem opened_events (x : Level) (s : State) : (opened x s).events = [] := rfl

/-- The phase action of the receiver (R68, R90). -/
def rxAct : Phase → State → State
  | .idle => rxIdle
  | .start => rxStart
  | .data => rxData
  | .parity => rxParity
  | .stop => rxStop

theorem received_of_waits {s : State} (h : 2 ≤ s.rxWait.toNat) (x : Level) :
    received x s = { toTick (txDrive (beginTick x s)) with rxWait := s.rxWait - 1 } :=
  rxDispatch_of_waits (s := toTick (txDrive (beginTick x s))) h

theorem received_of_acts {s : State} (h : s.rxWait.toNat ≤ 1) (x : Level) :
    received x s = rxAct s.rxPhase (opened x s) := by
  have hacts : received x s = rxSelected (opened x s) :=
    rxDispatch_of_acts (s := toTick (txDrive (beginTick x s))) h
  rw [hacts, rxSelected, if_pos (opened_rxWait x s), opened_rxPhase]
  cases s.rxPhase <;> rfl

/-- What RX.DATA makes of phase, wait and cursor, whatever the sample (R95). -/
theorem rxData_control (s : State) :
    (rxData s).rxPhase = (if cursorNext s.rxBit = cursorDone then .parity else s.rxPhase) ∧
      (rxData s).rxWait = 4 ∧ (rxData s).rxBit = cursorNext s.rxBit := by
  simp only [rxData, rxTakeBit_eq]
  split <;> exact ⟨rfl, rfl, rfl⟩

/-! The timeline of a frame, counted in ticks from the commit of its start bit, the same for both machines but for the
wait in which each leaves its stop bit (R98, R118). -/

/-- The phase `n` ticks after the commit. -/
def framePhase (n : Nat) : Phase :=
  if n < 32 then .data else if n < 36 then .parity else if n < 40 then .stop else .idle

/-- The wait `n` ticks after the commit: four ticks a period (R61). -/
def frameWait (n : Nat) : BitVec 3 := BitVec.ofNat 3 (4 - n % 4)

/-- The cursor `n` ticks after the commit: one place on each period, 0 behind the eighth (R14). -/
def frameCursor (n : Nat) : BitVec 8 := cursorFirst <<< (n / 4)

/-- A machine is at tick `n` of a frame: its phase, wait and cursor are that tick's. -/
structure OnTime (n : Nat) (p : Phase) (w : BitVec 3) (c : BitVec 8) : Prop where
  phase : p = framePhase n
  wait : w = frameWait n
  cursor : c = frameCursor n

theorem onTime_zero : OnTime 0 .data 4 0x01 := ⟨rfl, rfl, rfl⟩

/-- Inside a period a machine only waits. -/
theorem OnTime.waits {n : Nat} {p : Phase} {w : BitVec 3} {c : BitVec 8} (h : OnTime n p w c) (hn : n % 4 ≠ 3) :
    2 ≤ w.toNat ∧ OnTime (n + 1) p (w - 1) c := by
  obtain ⟨rfl, rfl, rfl⟩ := h
  have hmod : (n + 1) % 4 = n % 4 + 1 := by omega
  have hdiv : (n + 1) / 4 = n / 4 := by omega
  have hw : (frameWait n).toNat = 4 - n % 4 := by rw [frameWait, BitVec.toNat_ofNat]; omega
  have hw' : (frameWait (n + 1)).toNat = 4 - (n % 4 + 1) := by
    rw [frameWait, BitVec.toNat_ofNat, hmod]; omega
  have hphase : framePhase n = framePhase (n + 1) := by
    have h32 : n + 1 < 32 ↔ n < 32 := by omega
    have h36 : n + 1 < 36 ↔ n < 36 := by omega
    have h40 : n + 1 < 40 ↔ n < 40 := by omega
    simp only [framePhase, h32, h36, h40]
  exact ⟨by omega, hphase, by bv_omega, by rw [frameCursor, frameCursor, hdiv]⟩

/-- A machine acts at the end of a period only. -/
theorem OnTime.mod_of_acts {n : Nat} {p : Phase} {w : BitVec 3} {c : BitVec 8} (h : OnTime n p w c)
    (hw : w.toNat ≤ 1) : n % 4 = 3 := by
  by_contra hmod
  obtain ⟨hge, -⟩ := h.waits hmod
  omega

/-- At the end of a period a machine acts, and a wait of 4 begins. -/
theorem OnTime.acts {n : Nat} {p : Phase} {w : BitVec 3} {c : BitVec 8} (h : OnTime n p w c) (hn : n % 4 = 3) :
    w.toNat ≤ 1 ∧ frameWait (n + 1) = 4 := by
  obtain ⟨-, rfl, -⟩ := h
  have hmod : (n + 1) % 4 = 0 := by omega
  rw [frameWait, frameWait, hn, hmod]
  decide

theorem frameCursor_eq_done_iff {n : Nat} : frameCursor n = cursorDone ↔ 32 ≤ n := by
  have hset : ∀ q < 8, cursorFirst <<< q ≠ cursorDone := by decide
  constructor
  · intro hdone
    by_contra hlt
    exact hset (n / 4) (by omega) hdone
  · intro hle
    exact BitVec.shiftLeft_eq_zero (by omega)

theorem framePhase_ne_idle {n : Nat} (h : n < 40) : framePhase n ≠ .idle := by
  unfold framePhase
  split_ifs <;> simp

/-- At the end of a period the cursor's next value is that of the next tick. -/
theorem OnTime.cursor_next {n : Nat} {p : Phase} {w : BitVec 3} {c : BitVec 8} (h : OnTime n p w c)
    (hn : n % 4 = 3) : cursorNext c = frameCursor (n + 1) := by
  have hdiv : (n + 1) / 4 = n / 4 + 1 := by omega
  rw [h.cursor, cursorNext, frameCursor, frameCursor, hdiv, BitVec.shiftLeft_add]

theorem framePhase_ne_start (n : Nat) : framePhase n ≠ .start := by
  unfold framePhase
  split_ifs <;> simp

theorem framePhase_eq_parity_iff {n : Nat} : framePhase n = .parity ↔ 32 ≤ n ∧ n < 36 := by
  unfold framePhase
  split_ifs <;> simp <;> omega

theorem framePhase_eq_stop_iff {n : Nat} : framePhase n = .stop ↔ 36 ≤ n ∧ n < 40 := by
  unfold framePhase
  split_ifs <;> simp <;> omega

/-- A data bit is taken or driven at the end of its period; the eighth is the last (R95, R115). -/
theorem OnTime.data {n : Nat} {p : Phase} {w : BitVec 3} {c : BitVec 8} (h : OnTime n p w c) (hn : n % 4 = 3)
    (hlt : n < 32) : OnTime (n + 1) (if cursorNext c = cursorDone then .parity else p) 4 (cursorNext c) := by
  refine ⟨?_, (h.acts hn).2.symm, h.cursor_next hn⟩
  simp only [h.phase, h.cursor_next hn, frameCursor_eq_done_iff, framePhase, if_pos hlt]
  by_cases hlast : n + 1 < 32
  · rw [if_pos hlast, if_neg (by omega)]
  · rw [if_neg hlast, if_pos (by omega), if_pos (by omega)]

theorem OnTime.parity {p : Phase} {w : BitVec 3} {c : BitVec 8} (h : OnTime 35 p w c) : OnTime 36 .stop 4 c :=
  ⟨rfl, rfl, h.cursor⟩

/-- The transmitter leaves its stop bit with a wait of 4 (R117). -/
theorem OnTime.stop {p : Phase} {w : BitVec 3} {c : BitVec 8} (h : OnTime 39 p w c) : OnTime 40 .idle 4 c :=
  ⟨rfl, rfl, h.cursor⟩

/-! The receiver on the timeline. -/

/-- The receiver is at tick `n` after the commit of a start bit (R98). -/
def RxOnTime (n : Nat) (s : State) : Prop := OnTime n s.rxPhase s.rxWait s.rxBit

/-- A falling edge takes the receiver from IDLE to START (R93). -/
theorem tick_edge {s : State} (hp : s.rxPhase = .idle) (hw : s.rxWait.toNat ≤ 1) (hl : s.rxLast = high) :
    (tickSubSteps low s).rxPhase = .start ∧ (tickSubSteps low s).rxWait = 1 ∧
      (tickSubSteps low s).rxb = s.rxb := by
  have hr : received low s = { opened low s with rxPhase := .start, rxWait := 1 } := by
    rw [received_of_acts hw, hp]
    exact if_pos ⟨hl, rfl⟩
  obtain ⟨hphase, hwait, -⟩ := tick_receiver_eq low s
  rw [hphase, hwait, tick_rxb (by simp [hr]), hr]
  exact ⟨rfl, rfl, rfl⟩

/-- A line still low commits the start bit, and the timeline begins (R94, R98). -/
theorem tick_commit {s : State} (hp : s.rxPhase = .start) (hw : s.rxWait.toNat ≤ 1) :
    RxOnTime 0 (tickSubSteps low s) ∧ (tickSubSteps low s).rxParity = low ∧
      (tickSubSteps low s).rxb = s.rxb.setSlot s.rxb.wr 0x00 := by
  have hr : received low s = rxStartCommit (opened low s) := by
    rw [received_of_acts hw, hp, rxAct, rxStart, sample_eq_rxIn, opened_rxIn, if_pos rfl]
  rw [rxStartCommit_eq] at hr
  obtain ⟨hphase, hwait, hbit, hparity⟩ := tick_receiver_eq low s
  rw [RxOnTime, hphase, hwait, hbit, hparity, tick_rxb (by simp [hr]), hr]
  exact ⟨onTime_zero, rfl, rfl⟩

/-- In a frame each tick takes the receiver to the next place of the timeline, whatever is sampled (R98). -/
theorem RxOnTime.tick {n : Nat} {s : State} (h : RxOnTime n s) (hn : n < 39) (x : Level) :
    RxOnTime (n + 1) (tickSubSteps x s) := by
  obtain ⟨hphase, hwait, hbit, -⟩ := tick_receiver_eq x s
  rw [RxOnTime, hphase, hwait, hbit]
  by_cases hmod : n % 4 = 3
  · obtain ⟨hw, -⟩ := h.acts hmod
    rw [received_of_acts hw, h.phase]
    by_cases hlt : n < 32
    · have hdata : s.rxPhase = .data := by rw [h.phase, framePhase, if_pos hlt]
      rw [← h.phase, hdata, rxAct]
      obtain ⟨hp, hw4, hb⟩ := rxData_control (opened x s)
      rw [hp, hw4, hb]
      exact h.data hmod hlt
    · obtain rfl : n = 35 := by omega
      change OnTime 36 (rxParity (opened x s)).rxPhase (rxParity (opened x s)).rxWait (rxParity (opened x s)).rxBit
      rw [rxParity_eq]
      exact h.parity
  · obtain ⟨hw, hnext⟩ := h.waits hmod
    rw [received_of_waits hw]
    exact hnext

/-- The receiver's turn in the last tick of a frame is RX.STOP (R97, R98). -/
theorem RxOnTime.received_stop {s : State} (h : RxOnTime 39 s) (x : Level) :
    received x s = rxStop (opened x s) := by
  rw [received_of_acts (h.acts rfl).1, h.phase]; rfl

theorem RxOnTime.tick_stop {s : State} (h : RxOnTime 39 s) (x : Level) :
    (tickSubSteps x s).rxPhase = .idle ∧ (tickSubSteps x s).rxWait = 0 := by
  obtain ⟨hphase, hwait, -⟩ := tick_receiver_eq x s
  rw [hphase, hwait, h.received_stop, rxStop_eq]
  exact ⟨rfl, rfl⟩

/-- Along a trace the receiver stays on the timeline to the last tick of the frame. -/
theorem RxOnTime.run {s : State} (h : RxOnTime 0 s) (xs : List Level) {n : Nat} (hlen : n ≤ xs.length)
    (hn : n ≤ 39) : RxOnTime n (afterTicks (xs.take n) s) := by
  induction n with
  | zero => exact h
  | succ n ih =>
    rw [afterTicks_take_succ (List.getElem?_eq_getElem (by omega))]
    exact (ih (by omega) (by omega)).tick (by omega) _

/-- The receiver behind an edge and a low re-check is at the start of the timeline (R98). -/
theorem rxOnTime_afterTicks_low_low {s : State} (hp : s.rxPhase = .idle) (hw : s.rxWait.toNat ≤ 1)
    (hl : s.rxLast = high) : RxOnTime 0 (afterTicks [low, low] s) := by
  obtain ⟨hstart, hone, -⟩ := tick_edge hp hw hl
  rw [afterTicks_cons, afterTicks_cons, afterTicks_nil]
  exact (tick_commit hstart (by rw [hone]; decide)).1

/-- Settles O33: behind the edge and the low re-check the phases are those of the timeline. -/
theorem receivedFrameKeepsTheTimeline : Obligations.ReceivedFrameKeepsTheTimeline := by
  unfold Obligations.ReceivedFrameKeepsTheTimeline
  intro s xs k ha hp hw hl hlen hk hk'
  refine ⟨_, runTrace_eq ha _, ?_⟩
  have hwait : s.rxWait.toNat ≤ 1 := by rw [hw]; decide
  match k with
  | 0 => omega
  | 1 =>
    rw [List.take_succ_cons, List.take_zero, afterTicks_cons, afterTicks_nil, (tick_edge hp hwait hl).1]
    rfl
  | n + 2 =>
    have hsplit : (low :: low :: xs).take (n + 2) = [low, low] ++ xs.take n := rfl
    rw [hsplit, afterTicks_append]
    have h0 := rxOnTime_afterTicks_low_low hp hwait hl
    by_cases hn : n = 40
    · subst hn
      rw [afterTicks_take_succ (List.getElem?_eq_getElem (by omega))]
      exact ((h0.run xs (by omega) le_rfl).tick_stop _).1
    · rw [(h0.run xs (by omega) (by omega)).phase]
      have h2 : ¬ n + 2 < 2 := by omega
      have h34 : n + 2 < 34 ↔ n < 32 := by omega
      have h38 : n + 2 < 38 ↔ n < 36 := by omega
      have h42 : n + 2 < 42 ↔ n < 40 := by omega
      simp only [framePhase, h2, h34, h38, h42, if_false]

end Sys2Proof.Machine
end

section
/-! PROOFS. The byte a frame carries (spec/41_receiver.md R95, R98; spec/30_encoding.md R62, R63): its eight samples one
by one, the parity accumulated with them, its commit to RXB, and the events of the receiver in a tick (R71). -/

namespace Sys2Proof.Machine

open Sys2Proof

/-! The events of the receiver. -/

/-- The events that only the receiver emits (R71, R151). -/
def Event.ofReceiver : Event → Bool
  | .glitch | .parity | .stop | .rxByte _ | .rxOverflow => true
  | .timeout | .txOverflow _ | .txByte _ | .matched _ | .clear _ => false

/-- An operation that adds no event of the receiver's behind those that are there. -/
def AddsOthers (s t : State) : Prop := ∃ w, t.events = s.events ++ w ∧ ∀ e ∈ w, Event.ofReceiver e = false

theorem AddsOthers.none {s t : State} (h : t.events = s.events) : AddsOthers s t := ⟨[], by simp [h], by simp⟩

theorem AddsOthers.one {s t : State} {e : Event} (h : t.events = s.events ++ [e]) (he : e.ofReceiver = false) :
    AddsOthers s t := ⟨[e], h, by simpa using he⟩

theorem AddsOthers.trans {s t u : State} (h : AddsOthers s t) (k : AddsOthers t u) : AddsOthers s u := by
  obtain ⟨v, hv, hvo⟩ := h
  obtain ⟨w, hw, hwo⟩ := k
  exact ⟨v ++ w, by rw [hw, hv, List.append_assoc], fun e he => (List.mem_append.mp he).elim (hvo e) (hwo e)⟩

theorem AddsOthers.mem_iff {s t : State} (h : AddsOthers s t) {e : Event} (he : e.ofReceiver = true) :
    e ∈ t.events ↔ e ∈ s.events := by
  obtain ⟨w, hw, hwo⟩ := h
  rw [hw, List.mem_append, or_iff_left]
  exact fun hmem => by simp [hwo e hmem] at he

theorem AddsOthers.subset {s t : State} (h : AddsOthers s t) : s.events ⊆ t.events := by
  obtain ⟨w, hw, -⟩ := h
  rw [hw]
  exact List.subset_append_left _ _

theorem txDispatch_addsOthers (s : State) : AddsOthers s (txDispatch s) := by
  unfold txDispatch txSelected
  split
  · split
    · unfold txIdle; split <;> exact .none rfl
    · exact .none rfl
    · rw [txData_eq]
      dsimp only
      split
      · exact .one rfl rfl
      · exact .none rfl
    · exact .none rfl
    · exact .none rfl
  · exact .none rfl

theorem scanFrom_addsOthers (es : List QueryTableEntry) (i : Nat) (c : Bool) (s : State) :
    AddsOthers s (scanFrom i c s es).state := by
  induction es generalizing i c with
  | nil => exact .none rfl
  | cons e rest ih =>
    unfold scanFrom
    split
    · exact ih _ _
    · split
      · refine AddsOthers.trans (t := State.emit (.matched i) s) (.one rfl rfl) ?_
        unfold cmReply
        dsimp only
        split
        · exact .none rfl
        · exact .one rfl rfl
      · exact ih _ _

theorem clearFor_addsOthers (r : ClearReason) (s : State) : AddsOthers s (clearFor r s) := by
  cases r with
  | timeout => exact AddsOthers.trans (t := State.emit .timeout s) (.one rfl rfl) (.one rfl rfl)
  | matched => exact .one rfl rfl
  | noMatch => exact .one rfl rfl

theorem cmGate_addsOthers (s : State) : AddsOthers s (cmGate s) := by
  unfold cmGate
  split
  · refine (scanFrom_addsOthers s.table 0 false s).trans ?_
    rcases cmClear_cases (cmScan s).matched (cmScan s).couldMatch (cmScan s).state with ⟨hkeep, -⟩ | ⟨r, hclear⟩
    · exact .none (by rw [hkeep]; rfl)
    · dsimp only
      rw [hclear]
      exact clearFor_addsOthers r _
  · exact .none rfl

/-- Behind the receiver's turn a tick adds no event of the receiver's (R151). -/
theorem tick_addsOthers (x : Level) (s : State) : AddsOthers (received x s) (tickSubSteps x s) :=
  (AddsOthers.none (t := rxLatch x (received x s)) rfl).trans
    ((txDispatch_addsOthers _).trans (cmGate_addsOthers _))

/-! The parity over the first bits of a byte. -/

/-- The accumulator over the first `n` of the bits `d` (R62). -/
def parityOf (d : Nat → Level) (n : Nat) : Level := (List.range n).foldl (fun acc k => parityStep acc (d k)) parityClear

theorem parityOf_succ (d : Nat → Level) (n : Nat) : parityOf d (n + 1) = xor (parityOf d n) (d n) := by
  rw [parityOf, List.range_succ, List.foldl_append]; rfl

theorem parityOf_congr {d e : Nat → Level} {n : Nat} (h : ∀ k < n, d k = e k) : parityOf d n = parityOf e n := by
  induction n with
  | zero => rfl
  | succ n ih => rw [parityOf_succ, parityOf_succ, ih fun k hk => h k (by omega), h n (by omega)]

theorem evenParity_eq_parityOf (b : Byte) : evenParity b = parityOf b.getLsbD 8 := evenParity_eq_foldl b

/-! The byte under construction. -/

theorem frameCursor_getLsbD {n k : Nat} (hk : k < 8) : (frameCursor n).getLsbD k = decide (k = n / 4) := by
  rw [frameCursor, cursorFirst, BitVec.getLsbD_shiftLeft]
  have hone : (0x01 : BitVec 8).getLsbD (k - n / 4) = decide (k - n / 4 = 0) := by
    simp [BitVec.getLsbD_one]
  rw [hone]
  grind

theorem rxTakenByte_getLsbD (s : State) (k : Nat) :
    (rxTakenByte s).getLsbD k = ((s.rxb.slot s.rxb.wr).getLsbD k || (s.rxIn && s.rxBit.getLsbD k)) := by
  unfold rxTakenByte
  cases s.rxIn <;> simp

/-- The receiver is at tick `n` of a frame whose data bits are `d`, and has taken those whose period is over; RXB held
`c`, with write index `w`, when the frame began (R95, R98). -/
structure Receiving (d : Nat → Level) (c : ByteSeq) (w : Slot) (n : Nat) (s : State) : Prop where
  onTime : RxOnTime n s
  bits : ∀ k < 8, (s.rxb.slot s.rxb.wr).getLsbD k = (decide (k < n / 4) && d k)
  parity : s.rxParity = parityOf d (n / 4)
  content : s.rxb.content = c
  wr : s.rxb.wr = w

/-- A committed start bit opens the byte under construction with all bits 0 (R94). -/
theorem receiving_zero {s : State} (hmem : s.rxb.mem.wf = true) (hp : s.rxPhase = .idle) (hw : s.rxWait.toNat ≤ 1)
    (hl : s.rxLast = high) (d : Nat → Level) :
    Receiving d s.rxb.content s.rxb.wr 0 (afterTicks [low, low] s) := by
  obtain ⟨hstart, hone, hrxb⟩ := tick_edge hp hw hl
  obtain ⟨htime, hparity, hrxb'⟩ := tick_commit hstart (by rw [hone]; decide)
  rw [hrxb] at hrxb'
  rw [afterTicks_cons, afterTicks_cons, afterTicks_nil]
  refine ⟨htime, fun k _ => ?_, hparity, ?_, ?_⟩ <;> rw [hrxb']
  · simp [slot_setSlot hmem]
  · exact content_setSlot_wr hmem _
  · rfl

/-- The sample at the end of a period is the next bit of the byte under construction (R63). -/
theorem Receiving.takenByte {d : Nat → Level} {c : ByteSeq} {w : Slot} {n : Nat} {s : State}
    (h : Receiving d c w n s) (k : Nat) (hk : k < 8) :
    (rxTakenByte (opened (d (n / 4)) s)).getLsbD k = (decide (k < n / 4 + 1) && d k) := by
  rw [rxTakenByte_getLsbD, opened_rxb, opened_rxIn, opened_rxBit, h.bits k hk, h.onTime.cursor,
    frameCursor_getLsbD hk]
  by_cases hkn : k = n / 4
  · simp [hkn]
  · have hlt : k < n / 4 + 1 ↔ k < n / 4 := by omega
    simp [hkn, hlt]

/-- A tick before the last of the data takes the sample at the end of a period, and else only waits (R95, R98). -/
theorem Receiving.tick {d : Nat → Level} {c : ByteSeq} {w : Slot} {n : Nat} {s : State} (h : Receiving d c w n s)
    (hmem : s.rxb.mem.wf = true) (hn : n < 31) {x : Level} (hx : n % 4 = 3 → x = d (n / 4)) :
    Receiving d c w (n + 1) (tickSubSteps x s) := by
  have htime := h.onTime.tick (by omega) x
  have hbusy : (received x s).rxPhase ≠ .idle := by
    rw [← tick_rxPhase, htime.phase]
    exact framePhase_ne_idle (by omega)
  obtain ⟨-, -, -, hparity⟩ := tick_receiver_eq x s
  by_cases hmod : n % 4 = 3
  · obtain rfl := hx hmod
    have hdiv : (n + 1) / 4 = n / 4 + 1 := by omega
    have hdata : framePhase n = .data := if_pos (by omega)
    have hmore : cursorNext (opened (d (n / 4)) s).rxBit ≠ cursorDone := by
      rw [opened_rxBit, h.onTime.cursor_next hmod]
      exact mt frameCursor_eq_done_iff.mp (by omega)
    have hr : received (d (n / 4)) s = rxData (opened (d (n / 4)) s) := by
      rw [received_of_acts (h.onTime.acts hmod).1, h.onTime.phase, hdata]; rfl
    rw [rxData_of_more hmore] at hr
    have hrxb : (tickSubSteps (d (n / 4)) s).rxb = rxTakenBuf (opened (d (n / 4)) s) := by
      rw [tick_rxb (.inl hbusy), hr]
    refine ⟨htime, fun k hk => ?_, ?_, ?_, ?_⟩
    · rw [hrxb, hdiv, rxTakenBuf_slot_wr (by exact hmem), h.takenByte k hk]
    · rw [hparity, hr, hdiv, parityOf_succ, ← h.parity]; rfl
    · rw [hrxb, rxTakenBuf_content (by exact hmem)]; exact h.content
    · rw [hrxb, rxTakenBuf_wr]; exact h.wr
  · have hdiv : (n + 1) / 4 = n / 4 := by omega
    have hr := received_of_waits (h.onTime.waits hmod).1 x
    have hrxb : (tickSubSteps x s).rxb = s.rxb := by rw [tick_rxb (.inl hbusy), hr]; rfl
    refine ⟨htime, ?_, ?_, ?_, ?_⟩
    · rw [hrxb, hdiv]; exact h.bits
    · rw [hparity, hr, hdiv]; exact h.parity
    · rw [hrxb]; exact h.content
    · rw [hrxb]; exact h.wr

/-- What the receiver has made of a frame in the tick that commits its byte (R95, R98). -/
structure ByteReceived (b : Byte) (c : ByteSeq) (w : Slot) (s : State) : Prop where
  onTime : RxOnTime 32 s
  parity : s.rxParity = evenParity b
  content : s.rxb.content = c ++ [b]
  wr : s.rxb.wr = w + 1
  reported : .rxByte b ∈ s.events

/-- The tick of the eighth sample commits the byte of the eight, if RXB has room (R95, R98). -/
theorem Receiving.tick_commit {d : Nat → Level} {c : ByteSeq} {w : Slot} {s : State} (h : Receiving d c w 31 s)
    (hmem : s.rxb.mem.wf = true) (hroom : c.length < 15) :
    ∃ b : Byte, (∀ k < 8, b.getLsbD k = d k) ∧ ByteReceived b c w (tickSubSteps (d 7) s) := by
  have htime := h.onTime.tick (by omega) (d 7)
  have hbits : ∀ k < 8, (rxTakenByte (opened (d 7) s)).getLsbD k = d k := by
    intro k hk
    have hb := h.takenByte k hk
    rwa [decide_eq_true (by omega), Bool.true_and] at hb
  have hcount : (rbCount s.rxb).toNat < 15 := by rwa [← content_length, h.content]
  have hdone : cursorNext (opened (d 7) s).rxBit = cursorDone := by
    rw [opened_rxBit, h.onTime.cursor_next rfl]; rfl
  have hr : received (d 7) s = rxData (opened (d 7) s) := by
    rw [received_of_acts (h.onTime.acts rfl).1, h.onTime.phase]; rfl
  rw [rxData_of_done (by exact hmem) hdone, opened_rxb, if_pos hcount, rbCommit_eq, rxTakenBuf_count,
    opened_rxb, if_pos hcount] at hr
  have hbusy : (received (d 7) s).rxPhase ≠ .idle := by rw [hr]; nofun
  have hevents : (received (d 7) s).events = [.rxByte (rxTakenByte (opened (d 7) s))] := by rw [hr]; rfl
  obtain ⟨-, -, -, hparity⟩ := tick_receiver_eq (d 7) s
  refine ⟨rxTakenByte (opened (d 7) s), hbits, htime, ?_, ?_, ?_, ?_⟩
  · rw [hparity, hr, evenParity_eq_parityOf, parityOf_congr hbits, parityOf_succ, ← h.parity]
    rfl
  · have hpub := content_advance_wr (b := rxTakenBuf (opened (d 7) s)) (by rwa [rxTakenBuf_count])
    rw [rxTakenBuf_content (by exact hmem), rxTakenBuf_slot_wr (by exact hmem)] at hpub
    rw [tick_rxb (.inl hbusy), hr, ← h.content]
    exact hpub
  · rw [tick_rxb (.inl hbusy), hr, ← h.wr]
    exact congrArg slotNext (rxTakenBuf_wr _)
  · exact (tick_addsOthers (d 7) s).subset (by rw [hevents]; exact List.mem_singleton_self _)

/-- Behind the data a frame's ticks leave RXB and the accumulated parity (R96, R98). -/
theorem RxOnTime.tick_behind_data {n : Nat} {s : State} (h : RxOnTime n s) (hge : 32 ≤ n) (hlt : n < 39) (x : Level) :
    (tickSubSteps x s).rxb = s.rxb ∧ (tickSubSteps x s).rxParity = s.rxParity := by
  have hbusy : (received x s).rxPhase ≠ .idle := by
    rw [← tick_rxPhase, (h.tick hlt x).phase]
    exact framePhase_ne_idle (by omega)
  obtain ⟨-, -, -, hparity⟩ := tick_receiver_eq x s
  rw [tick_rxb (.inl hbusy), hparity]
  by_cases hmod : n % 4 = 3
  · obtain rfl : n = 35 := by omega
    have hp : framePhase 35 = .parity := rfl
    rw [received_of_acts (h.acts hmod).1, h.phase, hp, rxAct, rxParity_eq]
    exact ⟨rfl, rfl⟩
  · rw [received_of_waits (h.waits hmod).1]
    exact ⟨rfl, rfl⟩

/-! The byte along a trace. -/

/-- The data bits of a trace that begins at the commit of a start bit: the samples at the end of the first eight
periods (R63, R98). -/
def sampledBits (xs : List Level) (k : Nat) : Level := xs.getD (3 + 4 * k) low

theorem Receiving.run {xs : List Level} {c : ByteSeq} {w : Slot} {s : State}
    (h : Receiving (sampledBits xs) c w 0 s) (hinv : Inv s) {n : Nat} (hlen : n ≤ xs.length) (hn : n ≤ 31) :
    Receiving (sampledBits xs) c w n (afterTicks (xs.take n) s) := by
  induction n with
  | zero => exact h
  | succ n ih =>
    have hget : xs[n]? = some xs[n] := List.getElem?_eq_getElem (by omega)
    rw [afterTicks_take_succ hget]
    refine (ih (by omega) (by omega)).tick (afterTicks_inv hinv _).rxbMemory (by omega) fun hmod => ?_
    have hplace : 3 + 4 * (n / 4) = n := by omega
    rw [sampledBits, hplace, List.getD_eq_getElem?_getD, hget, Option.getD_some]

/-- The longest query of a well-formed table has at most 5 bytes (R64, R140). -/
theorem longestQuery_le {t : List QueryTableEntry} (h : tableWf t = true) : longestQuery t ≤ 5 := by
  induction t with
  | nil => exact Nat.zero_le _
  | cons e rest ih =>
    simp only [tableWf, List.all_cons, Bool.and_eq_true] at h
    obtain ⟨he, hrest⟩ := h
    simp only [QueryTableEntry.wf, seqLenOk, Bool.and_eq_true] at he
    exact max_le (of_decide_eq_true he.1.2) (ih hrest)

/-- A receiver in IDLE finds less than 5 bytes in RXB (R140). -/
theorem Inv.content_length_lt {s : State} (h : Inv s) (hp : s.rxPhase = .idle) : s.rxb.content.length < 5 := by
  have hc := (idleCount_iff s).mp (h.idleCount hp)
  have hq := longestQuery_le h.tableOk
  rw [content_length]
  omega

/-- Behind an edge and a low re-check the byte of the eight samples is received, whatever they are (R98). -/
theorem byteReceived {s : State} (hinv : Inv s) (hp : s.rxPhase = .idle) (hl : s.rxLast = high) {xs : List Level}
    (hlen : 32 ≤ xs.length) :
    ∃ b : Byte, (∀ k < 8, b.getLsbD k = sampledBits xs k) ∧
      ByteReceived b s.rxb.content s.rxb.wr (afterTicks ([low, low] ++ xs.take 32) s) := by
  have hw : s.rxWait.toNat ≤ 1 := by rw [hinv.rxIdleNoWait hp]; decide
  have hinv0 := afterTicks_inv hinv [low, low]
  have h31 := (receiving_zero hinv.rxbMemory hp hw hl (sampledBits xs)).run hinv0 (n := 31) (by omega) le_rfl
  have hget : xs[31]? = some (sampledBits xs 7) := by
    rw [sampledBits, List.getD_eq_getElem?_getD, List.getElem?_eq_getElem (by omega), Option.getD_some]
  rw [afterTicks_append, afterTicks_take_succ hget]
  have hroom := hinv.content_length_lt hp
  exact h31.tick_commit (afterTicks_inv hinv0 _).rxbMemory (by omega)

/-- Settles O34: the byte of the eight samples is received behind the edge and the low re-check. -/
theorem receivedByteIsItsEightSamples : Obligations.ReceivedByteIsItsEightSamples := by
  unfold Obligations.ReceivedByteIsItsEightSamples
  intro s xs hinv ha hp hl hlen
  obtain ⟨b, hbits, hrec⟩ := byteReceived hinv hp hl (xs := xs) (by omega)
  rw [List.take_of_length_le (by omega)] at hrec
  refine ⟨_, b, runTrace_eq ha _, fun k => ?_, hrec.content, hrec.wr, hrec.onTime.phase, hrec.parity, hrec.reported⟩
  rw [hbits k k.isLt, sampledBits, List.getD_eq_getElem?_getD, List.getElem?_eq_getElem (by omega),
    Option.getD_some]

end Sys2Proof.Machine
end

section
/-! PROOFS. A frame on the wire (spec/41_receiver.md R99, spec/30_encoding.md R72): its byte is received, and its parity
and stop levels bear on nothing but the events and the line's last level (R96, R97, R172, R173). -/

namespace Sys2Proof.Machine

open Sys2Proof

/-! What an operation leaves that does not look at the line. -/

/-- The state with other levels of the line, and events before its own. -/
def State.withLine (s : State) (last sample : Level) (evs : List Event) : State :=
  { s with rxLast := last, rxIn := sample, events := evs ++ s.events }

@[simp] theorem withLine_txWait (s : State) (last sample : Level) (evs : List Event) :
    (s.withLine last sample evs).txWait = s.txWait := rfl
@[simp] theorem withLine_txPhase (s : State) (last sample : Level) (evs : List Event) :
    (s.withLine last sample evs).txPhase = s.txPhase := rfl
@[simp] theorem withLine_rxPhase (s : State) (last sample : Level) (evs : List Event) :
    (s.withLine last sample evs).rxPhase = s.rxPhase := rfl
@[simp] theorem withLine_rxb (s : State) (last sample : Level) (evs : List Event) :
    (s.withLine last sample evs).rxb = s.rxb := rfl
@[simp] theorem withLine_table (s : State) (last sample : Level) (evs : List Event) :
    (s.withLine last sample evs).table = s.table := rfl

/-- States that differ at most in what was seen on the line agree once that is replaced. -/
theorem withLine_replace (s : State) (last sample last' sample' : Level) (evs evs' : List Event) :
    { s.withLine last sample evs with
      rxLast := (s.withLine last' sample' evs').rxLast
      rxIn := (s.withLine last' sample' evs').rxIn
      events := (s.withLine last' sample' evs').events } = s.withLine last' sample' evs' := rfl

/-- An operation that reads neither the line nor the events, and only adds to the events. -/
def LineBlind (f : State → State) : Prop :=
  ∀ s last sample evs, f (State.withLine s last sample evs) = (f s).withLine last sample evs

theorem emit_lineBlind (e : Event) : LineBlind (State.emit e) := by
  intro s last sample evs
  simp [State.emit, State.withLine]

theorem txIdle_lineBlind : LineBlind txIdle := by
  intro s last sample evs
  by_cases h : s.txb.rd = s.txb.wr <;> simp [txIdle, State.withLine, h]

theorem txData_lineBlind : LineBlind txData := by
  intro s last sample evs
  by_cases h : cursorNext s.txBit = cursorDone <;>
    simp [txData, txFinishByte, State.emit, State.withLine, h]

theorem txDispatch_lineBlind : LineBlind txDispatch := by
  intro s last sample evs
  have hd : txCountDown (s.withLine last sample evs) = (txCountDown s).withLine last sample evs := rfl
  rw [txDispatch, txDispatch, hd, txSelected, txSelected, withLine_txWait, withLine_txPhase]
  split
  · cases (txCountDown s).txPhase with
    | idle => exact txIdle_lineBlind _ _ _ _
    | start => rfl
    | data => exact txData_lineBlind _ _ _ _
    | parity => rfl
    | stop => rfl
  · rfl

theorem cmReply_lineBlind (i : Nat) (q : ByteSeq) : LineBlind (cmReply i q) := by
  intro s last sample evs
  by_cases h : (rbAppend s.txb q).2 <;> simp [cmReply, State.emit, State.withLine, h]

/-- The scan reads the table and RXB only, so it ends alike (R131). -/
theorem scanFrom_withLine (es : List QueryTableEntry) (i : Nat) (c : Bool) (s : State) (last sample : Level)
    (evs : List Event) :
    scanFrom i c (s.withLine last sample evs) es =
      { scanFrom i c s es with state := (scanFrom i c s es).state.withLine last sample evs } := by
  induction es generalizing i c with
  | nil => rfl
  | cons e rest ih =>
    rw [scanFrom, scanFrom, withLine_rxb]
    split
    · exact ih _ _
    · split
      · rw [emit_lineBlind, cmReply_lineBlind]
      · exact ih _ _

theorem clearFor_lineBlind (r : ClearReason) : LineBlind (clearFor r) := by
  intro s last sample evs
  cases r <;> simp [clearFor, State.emit, State.withLine]

theorem cmClear_lineBlind (m c : Bool) : LineBlind (cmClear m c) := by
  intro s last sample evs
  have hexp : timeoutExpired (s.withLine last sample evs) = timeoutExpired s := rfl
  rw [cmClear, cmClear, hexp]
  split
  · rfl
  · exact clearFor_lineBlind _ _ _ _ _

theorem cmGate_lineBlind : LineBlind cmGate := by
  intro s last sample evs
  rw [cmGate, cmGate, withLine_rxPhase, withLine_rxb]
  split
  · rw [cmScan, cmScan, withLine_table, scanFrom_withLine]
    exact cmClear_lineBlind _ _ _ _ _ _
  · rfl

/-! Two states that differ in what they saw on the line. -/

/-- Two states that differ at most in the line's last level and in the events. -/
def LineTwin (s t : State) : Prop :=
  ∃ last sample evs, t = { s with rxLast := last, rxIn := sample, events := evs }

theorem LineTwin.refl (s : State) : LineTwin s s := ⟨s.rxLast, s.rxIn, s.events, rfl⟩

theorem LineTwin.of_withLine (s : State) (last sample last' sample' : Level) (evs evs' : List Event) :
    LineTwin (s.withLine last sample evs) (s.withLine last' sample' evs') := ⟨last', sample', evs' ++ s.events, rfl⟩

theorem LineTwin.rxOnTime {s t : State} (h : LineTwin s t) {n : Nat} (hn : RxOnTime n s) : RxOnTime n t := by
  obtain ⟨last, sample, evs, rfl⟩ := h
  exact hn

/-- Behind the data the receiver's turn does with any sample the same, but for an event (R96, R97). -/
theorem received_twin {n : Nat} {s t : State} (hn : RxOnTime n s) (hge : 32 ≤ n) (hlt : n < 40) (h : LineTwin s t)
    (x : Level) :
    received x t =
      { received high s with rxLast := t.rxLast, rxIn := x, events := (received x t).events } := by
  have ht := h.rxOnTime hn
  have hopen : opened x t = { opened high s with rxLast := t.rxLast, rxIn := x } := by
    obtain ⟨last, sample, evs, rfl⟩ := h
    rfl
  by_cases hmod : n % 4 = 3
  · rw [received_of_acts (hn.acts hmod).1, received_of_acts (ht.acts hmod).1, hn.phase, ht.phase]
    obtain rfl | rfl : n = 35 ∨ n = 39 := by omega
    · have hp : framePhase 35 = .parity := rfl
      rw [hp, rxAct, rxParity_eq, rxParity_eq, hopen]
    · have hp : framePhase 39 = .stop := rfl
      rw [hp, rxAct, rxStop_eq, rxStop_eq, hopen]
  · rw [received_of_waits (hn.waits hmod).1, received_of_waits (ht.waits hmod).1]
    obtain ⟨last, sample, evs, rfl⟩ := h
    rfl

/-- The tick behind the data, but for what comes of the sample. -/
def tickBehindData (s : State) : State := cmGate (txDispatch { received high s with events := [] })

/-- Behind the data the sample bears on nothing but the line's last level and the event it causes. -/
theorem tick_twin {n : Nat} {s t : State} (hn : RxOnTime n s) (hge : 32 ≤ n) (hlt : n < 40) (h : LineTwin s t)
    (x : Level) : tickSubSteps x t = (tickBehindData s).withLine x x (received x t).events := by
  have hr : rxLatch x (received x t) =
      State.withLine { received high s with events := [] } x x (received x t).events := by
    rw [State.withLine, List.append_nil, received_twin hn hge hlt h x]
    rfl
  rw [tickSubSteps_eq, hr, txDispatch_lineBlind, cmGate_lineBlind]
  rfl

/-- Behind the data two traces of the same length leave states that differ at most in what was seen on the line. -/
theorem afterTicks_twin {xs ys : List Level} {n : Nat} {s t : State} (hn : RxOnTime n s) (hge : 32 ≤ n)
    (hlen : n + xs.length < 40) (hxy : xs.length = ys.length) (h : LineTwin s t) :
    LineTwin (afterTicks xs s) (afterTicks ys t) := by
  induction xs generalizing ys n s t with
  | nil =>
    obtain rfl := List.eq_nil_of_length_eq_zero hxy.symm
    exact h
  | cons x xs ih =>
    cases ys with
    | nil => simp at hxy
    | cons y ys =>
      simp only [List.length_cons] at hlen hxy
      rw [afterTicks_cons, afterTicks_cons]
      refine ih (hn.tick (by omega) x) (by omega) (by omega) (by omega) ?_
      rw [tick_twin hn hge (by omega) (.refl s), tick_twin hn hge (by omega) h]
      exact .of_withLine ..

/-! The events of the last two samples. -/

/-- The parity sample is reported exactly if it differs from the accumulated parity (R96). -/
theorem RxOnTime.parity_mem_iff {s : State} (h : RxOnTime 35 s) (x : Level) :
    .parity ∈ (tickSubSteps x s).events ↔ x ≠ s.rxParity := by
  have hp : framePhase 35 = .parity := rfl
  rw [(tick_addsOthers x s).mem_iff rfl, received_of_acts (h.acts rfl).1, h.phase, hp, rxAct, rxParity_eq]
  by_cases hx : x = s.rxParity <;> simp [hx]

/-- The events of the receiver's turn in a frame's last tick (R97). -/
theorem RxOnTime.stop_events {s : State} (h : RxOnTime 39 s) (x : Level) :
    (received x s).events = if x = high then [] else [.stop] := by
  rw [h.received_stop, rxStop_eq]; rfl

theorem RxOnTime.stop_mem_iff {s : State} (h : RxOnTime 39 s) (x : Level) :
    .stop ∈ (tickSubSteps x s).events ↔ x = low := by
  rw [(tick_addsOthers x s).mem_iff rfl, h.stop_events]
  cases x <;> simp

/-! The levels of a frame. -/

/-- Tick `k` of a frame shows bit period `k / 4` (R60, R61). -/
theorem getElem?_stimFrame (b : Byte) (p stop : Level) (k : Nat) :
    (stimFrame b p stop 4)[k]? = (framePeriods b p ++ [stop])[k / 4]? := by
  have hflat : stimFrame b p stop 4 = (framePeriods b p ++ [stop]).flatMap (List.replicate 4) := by
    rw [List.flatMap_append]; rfl
  rw [hflat, getElem?_flatMap_replicate (by decide)]

/-- Bit period `k + 1` of a frame shows data bit `k` (R41, R60). -/
theorem framePeriods_data (b : Byte) (p stop : Level) {k : Nat} (hk : k < 8) :
    (framePeriods b p ++ [stop])[k + 1]? = some (b.getLsbD k) := by
  interval_cases k <;> rfl

/-- The levels of a frame behind its first two ticks, in which the receiver commits its start bit. -/
def frameTail (b : Byte) (p stop : Level) : List Level := (stimFrame b p stop 4).drop 2

theorem take_stimFrame (b : Byte) (p stop : Level) (n : Nat) :
    (stimFrame b p stop 4).take (n + 2) = [low, low] ++ (frameTail b p stop).take n := rfl

theorem getElem?_frameTail (b : Byte) (p stop : Level) (n : Nat) :
    (frameTail b p stop)[n]? = (framePeriods b p ++ [stop])[(n + 2) / 4]? := by
  rw [frameTail, List.getElem?_drop, getElem?_stimFrame, Nat.add_comm]

/-- The eight samples of a frame are its data bits (R41, R63). -/
theorem sampledBits_frameTail (b : Byte) (p stop : Level) {k : Nat} (hk : k < 8) :
    sampledBits (frameTail b p stop) k = b.getLsbD k := by
  have hperiod : (3 + 4 * k + 2) / 4 = k + 1 := by omega
  rw [sampledBits, List.getD_eq_getElem?_getD, getElem?_frameTail, hperiod,
    framePeriods_data b p stop hk, Option.getD_some]

/-! The frame received. -/

/-- The byte of a frame is received whatever its parity and stop levels are (R99). -/
theorem frame_byteReceived {s : State} (hinv : Inv s) (hp : s.rxPhase = .idle) (hl : s.rxLast = high) (b : Byte)
    (p stop : Level) :
    ByteReceived b s.rxb.content s.rxb.wr (afterTicks ((stimFrame b p stop 4).take 34) s) := by
  obtain ⟨b', hbits, hrec⟩ := byteReceived hinv hp hl (xs := frameTail b p stop) (by exact (by decide : 32 ≤ 42))
  obtain rfl : b' = b :=
    BitVec.eq_of_getLsbD_eq fun k hk => (hbits k hk).trans (sampledBits_frameTail b p stop hk)
  exact hrec

/-- A frame takes the receiver along the timeline whatever its levels behind the start bit are (R98). -/
theorem frame_rxOnTime {s : State} (hinv : Inv s) (hp : s.rxPhase = .idle) (hl : s.rxLast = high) (b : Byte)
    (p stop : Level) {n : Nat} (hn : n ≤ 39) : RxOnTime n (afterTicks ((stimFrame b p stop 4).take (n + 2)) s) := by
  have hw : s.rxWait.toNat ≤ 1 := by rw [hinv.rxIdleNoWait hp]; decide
  have hlen : (frameTail b p stop).length = 42 := rfl
  rw [take_stimFrame, afterTicks_append]
  exact (rxOnTime_afterTicks_low_low hp hw hl).run _ (by omega) hn

/-- Behind the data a frame's ticks keep the byte received and the parity accumulated. -/
theorem frame_behind_data {s : State} (hinv : Inv s) (hp : s.rxPhase = .idle) (hl : s.rxLast = high) (b : Byte)
    (p stop : Level) {n : Nat} (hge : 32 ≤ n) (hn : n ≤ 39) :
    (afterTicks ((stimFrame b p stop 4).take (n + 2)) s).rxb.content = s.rxb.content ++ [b] ∧
      (afterTicks ((stimFrame b p stop 4).take (n + 2)) s).rxParity = evenParity b := by
  induction n, hge using Nat.le_induction with
  | base =>
    have hrec := frame_byteReceived hinv hp hl b p stop
    exact ⟨hrec.content, hrec.parity⟩
  | succ n hge ih =>
    obtain ⟨hcontent, hparity⟩ := ih (by omega)
    have hlen : (stimFrame b p stop 4).length = 44 := rfl
    have htime := frame_rxOnTime hinv hp hl b p stop (n := n) (by omega)
    have hget : (stimFrame b p stop 4)[n + 2]? = some _ := List.getElem?_eq_getElem (by omega)
    obtain ⟨hrxb, hacc⟩ := htime.tick_behind_data hge (by omega) (stimFrame b p stop 4)[n + 2]
    rw [Nat.add_right_comm, afterTicks_take_succ hget, hrxb, hacc]
    exact ⟨hcontent, hparity⟩

/-- The last tick of a frame's reception takes the sample of its stop bit (R97, R98). -/
theorem afterTicks_stimFrame_42 (s : State) (b : Byte) (p stop : Level) :
    afterTicks ((stimFrame b p stop 4).take 42) s =
      tickSubSteps stop (afterTicks ((stimFrame b p stop 4).take 41) s) :=
  afterTicks_take_succ (n := 41) rfl s

/-- Frames of the same byte leave states that differ at most in what was seen on the line. -/
theorem frame_twin {s : State} (hinv : Inv s) (hp : s.rxPhase = .idle) (hl : s.rxLast = high) (b : Byte)
    (p stop p' stop' : Level) :
    LineTwin (afterTicks ((stimFrame b p stop 4).take 41) s) (afterTicks ((stimFrame b p' stop' 4).take 41) s) := by
  have hsplit (q r : Level) : (stimFrame b q r 4).take 41 =
      (stimFrame b p stop 4).take 34 ++ [b.getLsbD 7, b.getLsbD 7, q, q, q, q, r] := rfl
  rw [hsplit p stop, hsplit p' stop', afterTicks_append, afterTicks_append]
  exact afterTicks_twin (frame_byteReceived hinv hp hl b p stop).onTime le_rfl (by simp) rfl (.refl _)

/-- Settles O35: the byte is received by the eighth sample; behind the data the samples bear on nothing but the events
and the line's last level, and of the last tick's events only EV_STOP comes of the sample. -/
theorem wireFrameIsReceived : Obligations.WireFrameIsReceived := by
  unfold Obligations.WireFrameIsReceived
  intro s b p stop hinv ha hp hl
  have hrec := frame_byteReceived hinv hp hl b p stop
  refine ⟨⟨_, runTrace_eq ha _, hrec.content, hrec.wr, hrec.reported⟩, ⟨_, runTrace_eq ha _, ?_⟩,
    ⟨_, runTrace_eq ha _, ?_⟩⟩
  · have htime := frame_rxOnTime hinv hp hl b p stop (n := 35) (by decide)
    obtain ⟨-, hparity⟩ := frame_behind_data hinv hp hl b p stop (n := 35) (by decide) (by decide)
    obtain ⟨hcontent, -⟩ := frame_behind_data hinv hp hl b p stop (n := 36) (by decide) (by decide)
    refine ⟨hcontent, ?_⟩
    rw [afterTicks_take_succ (n := 37) (x := p) rfl, htime.parity_mem_iff, hparity]
  · have htime := frame_rxOnTime hinv hp hl b p stop (n := 39) (by decide)
    rw [afterTicks_stimFrame_42]
    refine ⟨(htime.tick_stop stop).1, tickSubSteps_rxLast .., htime.stop_mem_iff stop, fun p' stop' => ?_⟩
    have htwin := frame_twin hinv hp hl b p stop p' stop'
    refine ⟨_, runTrace_eq ha _, ?_, ?_⟩ <;>
      rw [afterTicks_stimFrame_42, tick_twin htime (by decide) (by decide) htwin,
        tick_twin htime (by decide) (by decide) (.refl _)]
    · exact withLine_replace ..
    · have hnone (x : Level) : (if x = high then [] else [Event.stop]).filter (fun e => e ≠ .stop) = [] := by
        cases x <;> rfl
      rw [State.withLine, State.withLine, htime.stop_events, (htwin.rxOnTime htime).stop_events]
      dsimp only
      rw [List.filter_append, List.filter_append, hnone, hnone]

end Sys2Proof.Machine
end

section
/-! PROOFS. The transmitter along a frame (spec/42_transmitter.md R110 to R118): it drives the levels of the frame of the
oldest byte of TXB, whatever is received meanwhile, and takes that byte from TXB with the last data bit. -/

namespace Sys2Proof.Machine

open Sys2Proof

/-! The dispatch and TX.DATA. -/

/-- A wait of 2 or more only counts down (R110). -/
theorem txDispatch_of_waits {s : State} (h : 2 ≤ s.txWait.toNat) :
    txDispatch s = { s with txWait := s.txWait - 1 } := by
  have hne : s.txWait ≠ 0 := by bv_omega
  have hleft : s.txWait - 1 ≠ 0 := by bv_omega
  rw [txDispatch, txCountDown, countDown_of_ne_zero hne, txSelected, if_neg hleft]
  rfl

/-- The phase action of the transmitter (R68, R110). -/
def txAct : Phase → State → State
  | .idle => txIdle
  | .start => txStart
  | .data => txData
  | .parity => txParity
  | .stop => txStop

/-- A wait of 0 or 1 lets the phase action run, with the wait 0 (R110). -/
theorem txDispatch_of_acts {s : State} (h : s.txWait.toNat ≤ 1) :
    txDispatch s = txAct s.txPhase { s with txWait := 0 } := by
  have hzero : countDown s.txWait = 0 := by
    apply BitVec.eq_of_toNat_eq
    rw [countDown_toNat]
    exact Nat.sub_eq_zero_of_le h
  rw [txDispatch, txCountDown, hzero, txSelected, if_pos rfl]
  dsimp only
  cases s.txPhase <;> rfl

/-- What TX.DATA makes of the transmitter's registers (R115). -/
theorem txData_control (s : State) :
    (txData s).txPhase = (if cursorNext s.txBit = cursorDone then .parity else s.txPhase) ∧ (txData s).txWait = 4 ∧
      (txData s).txBit = cursorNext s.txBit ∧ (txData s).txLevel = dataBit (s.txb.slot s.txb.rd) s.txBit ∧
      (txData s).txParity = xor s.txParity (dataBit (s.txb.slot s.txb.rd) s.txBit) := by
  rw [txData_eq]
  dsimp only
  split <;> exact ⟨rfl, rfl, rfl, rfl, rfl⟩

theorem txData_txb_of_more {s : State} (h : cursorNext s.txBit ≠ cursorDone) : (txData s).txb = s.txb := by
  rw [txData_eq]
  dsimp only
  rw [if_neg h]
  rfl

/-- The last data bit takes the byte from TXB and reports it (R115). -/
theorem txData_of_done {s : State} (h : cursorNext s.txBit = cursorDone) :
    (txData s).txb = rbAdv s.txb ∧ (txData s).events = s.events ++ [.txByte (s.txb.slot s.txb.rd)] := by
  rw [txData_eq]
  dsimp only
  rw [if_pos h]
  exact ⟨rfl, rfl⟩

/-- The bit the cursor of tick `n` points at (R63, R115). -/
theorem dataBit_frameCursor (b : Byte) {n : Nat} (hn : n < 32) : dataBit b (frameCursor n) = b.getLsbD (n / 4) := by
  have hq : n / 4 < 8 := by omega
  cases hb : b.getLsbD (n / 4) with
  | true =>
    refine decide_eq_true fun hzero => ?_
    have hbit := congrArg (fun v : BitVec 8 => v.getLsbD (n / 4)) hzero
    simp [hb, frameCursor_getLsbD hq] at hbit
  | false =>
    refine decide_eq_false (not_not_intro (BitVec.eq_of_getLsbD_eq fun k hk => ?_))
    rw [BitVec.getLsbD_and, frameCursor_getLsbD hk]
    by_cases hkq : k = n / 4
    · simp [hkq, hb]
    · simp [hkq]

/-! TXB's content through a tick. -/

/-- The content of a ring buffer is a sequence, and maybe more behind it. -/
def RingBuf.BeginsWith (r : RingBuf) (c : ByteSeq) : Prop := ∃ more, r.content = c ++ more

theorem RingBuf.BeginsWith.self (r : RingBuf) : r.BeginsWith r.content := ⟨[], (List.append_nil _).symm⟩

theorem RingBuf.BeginsWith.trans {r t : RingBuf} {c : ByteSeq} (h : r.BeginsWith c) (k : t.BeginsWith r.content) :
    t.BeginsWith c := by
  obtain ⟨v, hv⟩ := h
  obtain ⟨w, hw⟩ := k
  exact ⟨v ++ w, by rw [hw, hv, List.append_assoc]⟩

/-- The byte a content begins with is the one at the read index, and RB.ADV leaves what is behind it (R85). -/
theorem RingBuf.BeginsWith.head {r : RingBuf} {b : Byte} {rest : ByteSeq} (h : r.BeginsWith (b :: rest)) :
    r.rd ≠ r.wr ∧ r.slot r.rd = b ∧ (rbAdv r).BeginsWith rest := by
  obtain ⟨more, hmore⟩ := h
  have hne : r.rd ≠ r.wr := by
    rw [ne_eq, ← content_eq_nil_iff, hmore]
    exact List.cons_ne_nil _ _
  rw [content_eq_cons hne, List.cons_append, List.cons.injEq] at hmore
  exact ⟨hne, hmore.1, more, hmore.2⟩

theorem cmReply_txb_content {s : State} (h : s.txb.mem.wf = true) (i : Nat) (q : ByteSeq) :
    (cmReply i q s).txb.BeginsWith s.txb.content := by
  rw [cmReply, rbAppend]
  by_cases hfit : q.length ≤ (rbFree s.txb).toNat
  · rw [if_pos hfit]
    have hroom : (rbCount s.txb).toNat + q.length ≤ 15 := by
      have hle := rbCount_le s.txb
      rw [rbFree_toNat] at hfit
      omega
    exact ⟨q, content_rbWriteAll h hroom⟩
  · rw [if_neg hfit]
    exact .self _

theorem scanFrom_txb_content {s : State} (h : s.txb.mem.wf = true) (es : List QueryTableEntry) (i : Nat) (c : Bool) :
    (scanFrom i c s es).state.txb.BeginsWith s.txb.content := by
  induction es generalizing i c with
  | nil => exact .self _
  | cons e rest ih =>
    unfold scanFrom
    split
    · exact ih _ _
    · split
      · exact cmReply_txb_content (s := State.emit (.matched i) s) h _ _
      · exact ih _ _

/-- The matcher only appends to TXB (R133). -/
theorem cmGate_txb_content {s : State} (h : s.txb.mem.wf = true) : (cmGate s).txb.BeginsWith s.txb.content := by
  unfold cmGate
  split
  · dsimp only
    rw [(cmClear_frame _ _ _).2]
    exact scanFrom_txb_content h s.table 0 false
  · exact .self _

/-! The transmitter's part of a tick. -/

/-- The state in which the transmitter has its turn: sub-steps 1 to 5 of TICK done (R150). -/
def latched (x : Level) (s : State) : State := rxLatch x (received x s)

/-- Before its turn a tick leaves what is the transmitter's (R151). -/
theorem latched_eq (x : Level) (s : State) :
    (latched x s).txPhase = s.txPhase ∧ (latched x s).txWait = s.txWait ∧ (latched x s).txBit = s.txBit ∧
      (latched x s).txLevel = s.txLevel ∧ (latched x s).txParity = s.txParity ∧ (latched x s).txb = s.txb := by
  obtain ⟨-, hl, -, hp, hw, hb, ha, htxb, -⟩ := rxDispatch_frame (toTick (txDrive (beginTick x s)))
  exact ⟨hp, hw, hb, hl, ha, htxb⟩

/-- The state in which the transmitter's phase action runs: the wait 0 (R110). -/
def txOpened (x : Level) (s : State) : State := { latched x s with txWait := 0 }

@[simp] theorem txOpened_txBit (x : Level) (s : State) : (txOpened x s).txBit = s.txBit := by
  obtain ⟨-, -, hb, -⟩ := latched_eq x s
  exact hb

@[simp] theorem txOpened_txLevel (x : Level) (s : State) : (txOpened x s).txLevel = s.txLevel := by
  obtain ⟨-, -, -, hl, -⟩ := latched_eq x s
  exact hl

@[simp] theorem txOpened_txParity (x : Level) (s : State) : (txOpened x s).txParity = s.txParity := by
  obtain ⟨-, -, -, -, ha, -⟩ := latched_eq x s
  exact ha

@[simp] theorem txOpened_txPhase (x : Level) (s : State) : (txOpened x s).txPhase = s.txPhase := by
  obtain ⟨hp, -⟩ := latched_eq x s
  exact hp

@[simp] theorem txOpened_txb (x : Level) (s : State) : (txOpened x s).txb = s.txb := by
  obtain ⟨-, -, -, -, -, htxb⟩ := latched_eq x s
  exact htxb

/-- The state once the transmitter has had its turn: sub-steps 1 to 6 of TICK (R150). -/
def transmitted (x : Level) (s : State) : State := txDispatch (latched x s)

theorem transmitted_of_waits {s : State} (h : 2 ≤ s.txWait.toNat) (x : Level) :
    transmitted x s = { txOpened x s with txWait := s.txWait - 1 } := by
  obtain ⟨-, hw, -⟩ := latched_eq x s
  rw [transmitted, txDispatch_of_waits (by rwa [hw]), hw]
  rfl

theorem transmitted_of_acts {s : State} (h : s.txWait.toNat ≤ 1) (x : Level) :
    transmitted x s = txAct s.txPhase (txOpened x s) := by
  obtain ⟨hp, hw, -⟩ := latched_eq x s
  rw [transmitted, txDispatch_of_acts (by rwa [hw]), ← hp]
  rfl

/-- What the transmitter leaves in its registers the rest of the tick leaves (R151). -/
theorem tick_transmitter_eq (x : Level) (s : State) :
    (tickSubSteps x s).txPhase = (transmitted x s).txPhase ∧ (tickSubSteps x s).txWait = (transmitted x s).txWait ∧
      (tickSubSteps x s).txBit = (transmitted x s).txBit ∧ (tickSubSteps x s).txLevel = (transmitted x s).txLevel ∧
      (tickSubSteps x s).txParity = (transmitted x s).txParity := by
  obtain ⟨-, -, -, -, -, hl, -, hp, hw, hb, ha, -⟩ := cmGate_frame (transmitted x s)
  exact ⟨hp, hw, hb, hl, ha⟩

/-- Behind the transmitter's turn a tick only appends to TXB (R133, R151). -/
theorem tick_txb_content {x : Level} {s : State} (h : s.txb.mem.wf = true) :
    (tickSubSteps x s).txb.BeginsWith (transmitted x s).txb.content := by
  obtain ⟨-, -, -, -, -, htxb⟩ := latched_eq x s
  refine cmGate_txb_content (s := transmitted x s) ?_
  rw [transmitted, txDispatch_txb_mem, htxb]
  exact h

/-! The transmitter along a frame. -/

/-- The transmitter is at tick `n` of the frame of `b`, counted from TX.START; behind `b` TXB holds `rest`, and maybe
more (R114 to R117). -/
structure Sending (b : Byte) (rest : ByteSeq) (n : Nat) (s : State) : Prop where
  onTime : OnTime n s.txPhase s.txWait s.txBit
  level : (framePeriods b (evenParity b) ++ [high])[n / 4]? = some s.txLevel
  parity : s.txParity = parityOf b.getLsbD (min (n / 4) 8)
  content : s.txb.BeginsWith (if n < 32 then b :: rest else rest)

/-- TX.IDLE that finds a byte goes to START, and leaves the level (R113). -/
theorem tick_txIdle {s : State} (hmem : s.txb.mem.wf = true) (hp : s.txPhase = .idle) (hw : s.txWait.toNat ≤ 1)
    (hne : s.txb.rd ≠ s.txb.wr) (x : Level) :
    (tickSubSteps x s).txPhase = .start ∧ (tickSubSteps x s).txWait = 1 ∧ (tickSubSteps x s).txLevel = s.txLevel ∧
      (tickSubSteps x s).txb.BeginsWith s.txb.content := by
  have ht : transmitted x s = { txOpened x s with txPhase := .start, txWait := 1 } := by
    rw [transmitted_of_acts hw, hp, txAct, txIdle]
    exact if_neg (by rwa [txOpened_txb])
  obtain ⟨hphase, hwait, -, hlevel, -⟩ := tick_transmitter_eq x s
  have hcontent := tick_txb_content (x := x) hmem
  rw [ht] at hphase hwait hlevel hcontent
  rw [txOpened_txb] at hcontent
  exact ⟨hphase, hwait, hlevel.trans (txOpened_txLevel x s), hcontent⟩

/-- TX.START begins the frame of the oldest byte (R114). -/
theorem tick_txStart {s : State} (hmem : s.txb.mem.wf = true) (hp : s.txPhase = .start) (hw : s.txWait.toNat ≤ 1)
    {b : Byte} {rest : ByteSeq} (hc : s.txb.BeginsWith (b :: rest)) (x : Level) :
    Sending b rest 0 (tickSubSteps x s) := by
  have ht : transmitted x s = txStart (txOpened x s) := by rw [transmitted_of_acts hw, hp, txAct]
  obtain ⟨hphase, hwait, hbit, hlevel, hparity⟩ := tick_transmitter_eq x s
  have hcontent := tick_txb_content (x := x) hmem
  rw [ht] at hphase hwait hbit hlevel hparity hcontent
  rw [txStart_txb, txOpened_txb] at hcontent
  refine ⟨?_, ?_, hparity, hc.trans hcontent⟩
  · rw [hphase, hwait, hbit]; exact onTime_zero
  · rw [hlevel]; rfl

theorem sending_zero {s : State} (hinv : Inv s) (hp : s.txPhase = .idle) (hw : s.txWait.toNat ≤ 1) {b : Byte}
    {rest : ByteSeq} (hc : s.txb.BeginsWith (b :: rest)) (x y : Level) :
    Sending b rest 0 (afterTicks [x, y] s) := by
  obtain ⟨hne, -, -⟩ := hc.head
  obtain ⟨hstart, hone, -, hcontent⟩ := tick_txIdle hinv.txbMemory hp hw hne x
  rw [afterTicks_cons, afterTicks_cons, afterTicks_nil]
  exact tick_txStart (tickSubSteps_inv hinv x).txbMemory hstart (by rw [hone]; decide) (hc.trans hcontent) y

/-- The transmitter's turn at the end of a data period is TX.DATA (R115). -/
theorem OnTime.transmitted_data {n : Nat} {s : State} (h : OnTime n s.txPhase s.txWait s.txBit) (hn : n < 32)
    (hmod : n % 4 = 3) (x : Level) : transmitted x s = txData (txOpened x s) := by
  have hdata : framePhase n = .data := if_pos hn
  rw [transmitted_of_acts (h.acts hmod).1, h.phase, hdata, txAct]

/-- The tick at the end of a data period drives the next data bit, and the last one takes the byte from TXB (R115). -/
theorem Sending.tick_data {b : Byte} {rest : ByteSeq} {n : Nat} {s : State} (h : Sending b rest n s)
    (hmem : s.txb.mem.wf = true) (hn : n < 32) (hmod : n % 4 = 3) (x : Level) :
    Sending b rest (n + 1) (tickSubSteps x s) := by
  have hc := h.content
  rw [if_pos hn] at hc
  obtain ⟨-, hbyte, hadv⟩ := hc.head
  obtain ⟨hphase, hwait, hbit, hlevel, hparity⟩ := tick_transmitter_eq x s
  have hcontent := tick_txb_content (x := x) hmem
  obtain ⟨hp, hw, hb, hl, ha⟩ := txData_control (txOpened x s)
  rw [h.onTime.transmitted_data hn hmod, hp, txOpened_txBit, txOpened_txPhase] at hphase
  rw [h.onTime.transmitted_data hn hmod, hw] at hwait
  rw [h.onTime.transmitted_data hn hmod, hb, txOpened_txBit] at hbit
  rw [h.onTime.transmitted_data hn hmod, hl, txOpened_txb, hbyte, txOpened_txBit, h.onTime.cursor,
    dataBit_frameCursor b hn] at hlevel
  rw [h.onTime.transmitted_data hn hmod, ha, txOpened_txb, hbyte, txOpened_txBit, txOpened_txParity, h.onTime.cursor,
    dataBit_frameCursor b hn] at hparity
  rw [h.onTime.transmitted_data hn hmod] at hcontent
  have hdiv : (n + 1) / 4 = n / 4 + 1 := by omega
  refine ⟨?_, ?_, ?_, ?_⟩
  · rw [hphase, hwait, hbit]
    exact h.onTime.data hmod hn
  · rw [hlevel, hdiv, framePeriods_data b _ _ (by omega)]
  · rw [hparity, h.parity, hdiv, min_eq_left (by omega), min_eq_left (by omega), parityOf_succ]
  · have hnext : cursorNext (txOpened x s).txBit = frameCursor (n + 1) := by
      rw [txOpened_txBit, h.onTime.cursor_next hmod]
    by_cases hlast : n + 1 < 32
    · rw [txData_txb_of_more (by rw [hnext]; exact mt frameCursor_eq_done_iff.mp (by omega)), txOpened_txb] at hcontent
      rw [if_pos hlast]
      exact hc.trans hcontent
    · rw [(txData_of_done (hnext.trans (frameCursor_eq_done_iff.mpr (by omega)))).1, txOpened_txb] at hcontent
      rw [if_neg hlast]
      exact hadv.trans hcontent

/-- Inside a period a tick only counts the transmitter's wait down (R110). -/
theorem Sending.tick_waits {b : Byte} {rest : ByteSeq} {n : Nat} {s : State} (h : Sending b rest n s)
    (hmem : s.txb.mem.wf = true) (hmod : n % 4 ≠ 3) (x : Level) : Sending b rest (n + 1) (tickSubSteps x s) := by
  obtain ⟨hw, hnext⟩ := h.onTime.waits hmod
  obtain ⟨hphase, hwait, hbit, hlevel, hparity⟩ := tick_transmitter_eq x s
  have hcontent := tick_txb_content (x := x) hmem
  rw [transmitted_of_waits hw] at hphase hwait hbit hlevel hparity hcontent
  have hdiv : (n + 1) / 4 = n / 4 := by omega
  have hsame : n + 1 < 32 ↔ n < 32 := by omega
  refine ⟨?_, ?_, ?_, ?_⟩
  · rw [hphase.trans (txOpened_txPhase x s), hwait, hbit.trans (txOpened_txBit x s)]
    exact hnext
  · rw [hlevel.trans (txOpened_txLevel x s), hdiv]
    exact h.level
  · rw [hparity.trans (txOpened_txParity x s), hdiv]
    exact h.parity
  · dsimp only at hcontent
    rw [txOpened_txb] at hcontent
    rw [if_congr hsame rfl rfl]
    exact h.content.trans hcontent

/-- Behind the data the accumulated parity is driven (R116). -/
theorem Sending.tick_parity {b : Byte} {rest : ByteSeq} {s : State} (h : Sending b rest 35 s)
    (hmem : s.txb.mem.wf = true) (x : Level) : Sending b rest 36 (tickSubSteps x s) := by
  have ht : transmitted x s = txParity (txOpened x s) := by
    rw [transmitted_of_acts (h.onTime.acts rfl).1, h.onTime.phase]; rfl
  obtain ⟨hphase, hwait, hbit, hlevel, hparity⟩ := tick_transmitter_eq x s
  have hcontent := tick_txb_content (x := x) hmem
  rw [ht] at hphase hwait hbit hlevel hparity hcontent
  rw [txParity_txb, txOpened_txb] at hcontent
  refine ⟨?_, ?_, ?_, h.content.trans hcontent⟩
  · rw [hphase, hwait, hbit, txParity_txBit, txOpened_txBit]
    exact h.onTime.parity
  · rw [hlevel, txParity_txLevel, txOpened_txParity, h.parity, evenParity_eq_parityOf]; rfl
  · rw [hparity, txParity_txParity, txOpened_txParity]
    exact h.parity

/-- Behind the parity bit the line is driven high, and the transmitter is idle with a wait (R117). -/
theorem Sending.tick_stop {b : Byte} {rest : ByteSeq} {s : State} (h : Sending b rest 39 s)
    (hmem : s.txb.mem.wf = true) (x : Level) : Sending b rest 40 (tickSubSteps x s) := by
  have ht : transmitted x s = txStop (txOpened x s) := by
    rw [transmitted_of_acts (h.onTime.acts rfl).1, h.onTime.phase]; rfl
  obtain ⟨hphase, hwait, hbit, hlevel, hparity⟩ := tick_transmitter_eq x s
  have hcontent := tick_txb_content (x := x) hmem
  rw [ht] at hphase hwait hbit hlevel hparity hcontent
  rw [txStop_txb, txOpened_txb] at hcontent
  refine ⟨?_, ?_, ?_, h.content.trans hcontent⟩
  · rw [hphase, hwait, hbit, txStop_txBit, txOpened_txBit]
    exact h.onTime.stop
  · rw [hlevel]; rfl
  · rw [hparity, txStop_txParity, txOpened_txParity]
    exact h.parity

/-- In a frame each tick takes the transmitter to the next place of the timeline (R118). -/
theorem Sending.tick {b : Byte} {rest : ByteSeq} {n : Nat} {s : State} (h : Sending b rest n s)
    (hmem : s.txb.mem.wf = true) (hn : n < 43) (x : Level) : Sending b rest (n + 1) (tickSubSteps x s) := by
  by_cases hmod : n % 4 = 3
  · by_cases hdata : n < 32
    · exact h.tick_data hmem hdata hmod x
    · obtain rfl | rfl : n = 35 ∨ n = 39 := by omega
      · exact h.tick_parity hmem x
      · exact h.tick_stop hmem x
  · exact h.tick_waits hmem hmod x

/-- The tick of the last data bit reports the byte (R115). -/
theorem Sending.txByte_mem {b : Byte} {rest : ByteSeq} {s : State} (h : Sending b rest 31 s) (x : Level) :
    .txByte b ∈ (tickSubSteps x s).events := by
  obtain ⟨-, hbyte, -⟩ := RingBuf.BeginsWith.head (rest := rest) h.content
  have hdone : cursorNext (txOpened x s).txBit = cursorDone := by
    rw [txOpened_txBit, h.onTime.cursor_next rfl]; rfl
  refine (cmGate_addsOthers (transmitted x s)).subset ?_
  rw [h.onTime.transmitted_data (by decide) rfl, (txData_of_done hdone).2, txOpened_txb, hbyte]
  exact List.mem_append_right _ (List.mem_singleton_self _)

/-- Along a trace the transmitter stays on the timeline to the end of the stop bit. -/
theorem Sending.run {b : Byte} {rest : ByteSeq} {s : State} (h : Sending b rest 0 s) (hinv : Inv s) (xs : List Level)
    {n : Nat} (hlen : n ≤ xs.length) (hn : n ≤ 43) : Sending b rest n (afterTicks (xs.take n) s) := by
  induction n with
  | zero => exact h
  | succ n ih =>
    rw [afterTicks_take_succ (List.getElem?_eq_getElem (by omega))]
    exact (ih (by omega) (by omega)).tick (afterTicks_inv hinv _).txbMemory (by omega) _

end Sys2Proof.Machine
end

section
/-! PROOFS. The loop-back (spec/41_receiver.md R99, spec/42_transmitter.md R119): with `rx_in` wired to `tx_pin` the
samples of a frame are the levels the transmitter has driven, so each byte of TXB arrives as a frame on the wire with
the right parity and stop levels. -/

namespace Sys2Proof.Machine

open Sys2Proof

/-! A run in loop-back is the run over the trace of the pin's levels. -/

theorem runLoopback_add {m : Nat} {s t : State} (h : runLoopback m s = .next t) (n : Nat) :
    runLoopback (m + n) s = runLoopback n t := by
  induction m generalizing s with
  | zero =>
    cases h
    rw [Nat.zero_add]
  | succ m ih =>
    obtain ⟨u, hu⟩ := execTick_next s.txPin s
    rw [Nat.add_right_comm, runLoopback, exec_tick, hu]
    rw [runLoopback, exec_tick, hu] at h
    exact ih h

/-- A trace that shows at each tick the level the pin then has is the trace of the loop-back (R119). -/
theorem runLoopback_eq {s : State} (ha : s.active = true) {xs : List Level}
    (hpin : ∀ k x, xs[k]? = some x → (afterTicks (xs.take k) s).txPin = x) {k : Nat} (hk : k ≤ xs.length) :
    runLoopback k s = .next (afterTicks (xs.take k) s) := by
  induction k generalizing xs s with
  | zero => rfl
  | succ k ih =>
    cases xs with
    | nil => simp at hk
    | cons x xs =>
      have hx : s.txPin = x := hpin 0 x rfl
      rw [runLoopback, exec_tick, execTick_active ha, hx, List.take_succ_cons, afterTicks_cons]
      refine ih (by rw [tickSubSteps_active, ha]) (fun n y hy => ?_) (by simpa using hk)
      have hnext := hpin (n + 1) y (by simpa using hy)
      rwa [List.take_succ_cons, afterTicks_cons] at hnext

/-! Ticks without an anomaly of the line. -/

/-- No glitch, parity or stop anomaly is reported. -/
def NoAnomaly (evs : List Event) : Prop := .glitch ∉ evs ∧ .parity ∉ evs ∧ .stop ∉ evs

/-- RX.DATA reports a byte, received or lost, or nothing (R95). -/
theorem mem_rxData_events {s : State} {e : Event} (h : e ∈ (rxData s).events) :
    e ∈ s.events ∨ (∃ b, e = .rxByte b) ∨ e = .rxOverflow := by
  simp only [rxData, rxTakeBit_eq] at h
  split at h
  · simp only [rxFinishByte, emit_events, List.mem_append, List.mem_singleton] at h
    split at h
    · exact h.imp_right fun he => .inl ⟨_, he⟩
    · exact h.imp_right .inr
  · exact .inl h

/-- The receiver's turn reports no anomaly if the start bit is still low, the parity bit is the accumulated one and the
stop bit is high (R94, R96, R97). -/
theorem mem_received_events {x : Level} {s : State} (hstart : s.rxPhase = .start → x = low)
    (hparity : s.rxPhase = .parity → s.rxWait.toNat ≤ 1 → x = s.rxParity)
    (hstop : s.rxPhase = .stop → s.rxWait.toNat ≤ 1 → x = high) {e : Event} (he : e ∈ (received x s).events) :
    (∃ b, e = .rxByte b) ∨ e = .rxOverflow := by
  by_cases hw : s.rxWait.toNat ≤ 1
  · rw [received_of_acts hw] at he
    cases hp : s.rxPhase with
    | idle =>
      rw [hp, rxAct, rxIdle_eq] at he
      simp at he
    | start =>
      rw [hp, rxAct, rxStart, sample_eq_rxIn, opened_rxIn, if_pos (hstart hp), rxStartCommit_eq] at he
      simp at he
    | data =>
      rw [hp, rxAct] at he
      exact (mem_rxData_events he).resolve_left (by simp)
    | parity =>
      rw [hp, rxAct, rxParity_eq] at he
      simp [hparity hp hw] at he
    | stop =>
      rw [hp, rxAct, rxStop_eq] at he
      simp [hstop hp hw] at he
  · rw [received_of_waits (by omega)] at he
    simp at he

theorem tick_noAnomaly {x : Level} {s : State} (hstart : s.rxPhase = .start → x = low)
    (hparity : s.rxPhase = .parity → s.rxWait.toNat ≤ 1 → x = s.rxParity)
    (hstop : s.rxPhase = .stop → s.rxWait.toNat ≤ 1 → x = high) : NoAnomaly (tickSubSteps x s).events := by
  have hnot (e : Event) (hr : e.ofReceiver = true) (hb : ∀ b, e ≠ .rxByte b) (ho : e ≠ .rxOverflow) :
      e ∉ (tickSubSteps x s).events := by
    rw [(tick_addsOthers x s).mem_iff hr]
    intro he
    rcases mem_received_events hstart hparity hstop he with ⟨b, rfl⟩ | rfl
    · exact hb b rfl
    · exact ho rfl
  exact ⟨hnot _ rfl nofun nofun, hnot _ rfl nofun nofun, hnot _ rfl nofun nofun⟩

/-- A receiver in IDLE reports no anomaly (R93). -/
theorem tick_noAnomaly_of_idle {s : State} (hp : s.rxPhase = .idle) (x : Level) :
    NoAnomaly (tickSubSteps x s).events :=
  tick_noAnomaly (by simp [hp]) (by simp [hp]) (by simp [hp])

/-- A frame with the parity of its byte and a high stop bit is received without an anomaly (R99). -/
theorem frame_noAnomaly {s : State} (hinv : Inv s) (hp : s.rxPhase = .idle) (hl : s.rxLast = high) (b : Byte)
    {m : Nat} (hm : m < 42) {x : Level} (hx : (stimFrame b (evenParity b) high 4)[m]? = some x) :
    NoAnomaly (tickSubSteps x (afterTicks ((stimFrame b (evenParity b) high 4).take m) s)).events := by
  have hw : s.rxWait.toNat ≤ 1 := by rw [hinv.rxIdleNoWait hp]; decide
  match m with
  | 0 => exact tick_noAnomaly_of_idle hp x
  | 1 =>
    obtain rfl : low = x := Option.some.inj hx
    have htake : (stimFrame b (evenParity b) high 4).take 1 = [low] := rfl
    obtain ⟨hstart, -⟩ := tick_edge hp hw hl
    rw [htake, afterTicks_cons, afterTicks_nil]
    exact tick_noAnomaly (fun _ => rfl) (fun hpar => absurd (hstart.symm.trans hpar) nofun)
      fun hst => absurd (hstart.symm.trans hst) nofun
  | n + 2 =>
    have htime := frame_rxOnTime hinv hp hl b (evenParity b) high (n := n) (by omega)
    have hphase := htime.phase
    refine tick_noAnomaly (fun hs => ?_) (fun hpar hacts => ?_) fun hst hacts => ?_
    · exact absurd (hphase.symm.trans hs) (framePhase_ne_start n)
    · obtain ⟨hge, hlt⟩ := framePhase_eq_parity_iff.mp (hphase.symm.trans hpar)
      have hmod := htime.mod_of_acts hacts
      obtain rfl : n = 35 := by omega
      obtain ⟨-, hacc⟩ := frame_behind_data hinv hp hl b (evenParity b) high hge (by decide)
      rw [hacc]
      exact (Option.some.inj hx).symm
    · obtain ⟨hge, hlt⟩ := framePhase_eq_stop_iff.mp (hphase.symm.trans hst)
      have hmod := htime.mod_of_acts hacts
      obtain rfl : n = 39 := by omega
      exact (Option.some.inj hx).symm

/-! The samples of a frame in loop-back. -/

/-- A receiver in IDLE stays there while the line is high, and leaves an empty RXB as it is (R93, R130). -/
theorem idle_afterTicks_high {s : State} (hinv : Inv s) (hp : s.rxPhase = .idle) (n : Nat) :
    (afterTicks (List.replicate n high) s).rxPhase = .idle ∧
      (s.rxb.rd = s.rxb.wr → (afterTicks (List.replicate n high) s).rxb = s.rxb) := by
  induction n generalizing s with
  | zero => exact ⟨hp, fun _ => rfl⟩
  | succ n ih =>
    have hr : received high s = opened high s := by
      rw [received_of_acts (by rw [hinv.rxIdleNoWait hp]; decide), hp, rxAct, rxIdle]
      exact if_neg (by simp)
    have hphase : (tickSubSteps high s).rxPhase = .idle := by rw [tick_rxPhase, hr, opened_rxPhase, hp]
    obtain ⟨hidle, hrxb⟩ := ih (tickSubSteps_inv hinv high) hphase
    rw [List.replicate_succ, afterTicks_cons]
    refine ⟨hidle, fun hempty => ?_⟩
    have hsame : (tickSubSteps high s).rxb = s.rxb := by
      rw [tick_rxb (.inr (by rw [hr]; exact hempty)), hr, opened_rxb]
    rw [hrxb (by rw [hsame, hempty]), hsame]

/-- What the loop-back finds where a byte of TXB is next: both machines idle, the line high (R119). -/
structure LoopReady (s : State) : Prop where
  inv : Inv s
  active : s.active = true
  rxIdle : s.rxPhase = .idle
  rxHigh : s.rxLast = high
  txIdle : s.txPhase = .idle
  txReady : s.txWait.toNat ≤ 1
  pinHigh : s.txPin = high

/-- The samples of the 45 ticks from TX.IDLE to the receiver's RX.STOP: the pin lags the level by a tick, and the
sample the pin by another (R118, R119). -/
def loopFrame (b : Byte) : List Level := List.replicate 3 high ++ (stimFrame b (evenParity b) high 4).take 42

theorem length_loopFrame (b : Byte) : (loopFrame b).length = 45 := rfl

theorem take_loopFrame (b : Byte) {m : Nat} (hm : m ≤ 42) :
    (loopFrame b).take (3 + m) = List.replicate 3 high ++ (stimFrame b (evenParity b) high 4).take m := by
  have hlen : (List.replicate 3 high).length = 3 := rfl
  rw [loopFrame, List.take_append, hlen, List.take_of_length_le (by rw [hlen]; omega), Nat.add_sub_cancel_left,
    List.take_take, min_eq_left hm]

theorem getElem?_loopFrame (b : Byte) {m : Nat} (hm : m < 42) :
    (loopFrame b)[3 + m]? = (stimFrame b (evenParity b) high 4)[m]? := by
  have hlen : (List.replicate 3 high).length = 3 := rfl
  rw [loopFrame, List.getElem?_append_right (by rw [hlen]; omega), hlen, Nat.add_sub_cancel_left,
    List.getElem?_take_of_lt hm]

/-- From the second tick on the transmitter is on the timeline. -/
theorem LoopReady.sending {s : State} (h : LoopReady s) {b : Byte} {rest : ByteSeq}
    (hc : s.txb.BeginsWith (b :: rest)) {n : Nat} (hn : n ≤ 43) :
    Sending b rest n (afterTicks ((loopFrame b).take (n + 2)) s) := by
  have hsplit : (loopFrame b).take (n + 2) = [high, high] ++ ((loopFrame b).drop 2).take n := rfl
  have hlen : ((loopFrame b).drop 2).length = 43 := rfl
  rw [hsplit, afterTicks_append]
  exact (sending_zero h.inv h.txIdle h.txReady hc high high).run (afterTicks_inv h.inv _) _ (by omega) hn

/-- At each tick the pin shows the next sample (R118, R119). -/
theorem LoopReady.txPin_eq {s : State} (h : LoopReady s) {b : Byte} {rest : ByteSeq}
    (hc : s.txb.BeginsWith (b :: rest)) {k : Nat} {x : Level} (hx : (loopFrame b)[k]? = some x) :
    (afterTicks ((loopFrame b).take k) s).txPin = x := by
  have hlen := length_loopFrame b
  obtain ⟨hk, -⟩ := List.getElem?_eq_some_iff.mp hx
  have hlevel := h.inv.txIdleLevel h.txIdle
  match k with
  | 0 => exact h.pinHigh.trans (Option.some.inj hx)
  | 1 =>
    have htake : (loopFrame b).take 1 = [high] := rfl
    rw [htake, afterTicks_cons, afterTicks_nil, tickSubSteps_txPin, hlevel]
    exact Option.some.inj hx
  | 2 =>
    obtain ⟨hne, -, -⟩ := hc.head
    obtain ⟨-, -, hkeep, -⟩ := tick_txIdle h.inv.txbMemory h.txIdle h.txReady hne high
    have htake : (loopFrame b).take 2 = [high, high] := rfl
    rw [htake, afterTicks_cons, afterTicks_cons, afterTicks_nil, tickSubSteps_txPin, hkeep, hlevel]
    exact Option.some.inj hx
  | n + 3 =>
    have hsend := (h.sending hc (n := n) (by omega)).level
    rw [Nat.add_comm, getElem?_loopFrame b (by omega), getElem?_stimFrame, hsend] at hx
    rw [afterTicks_take_succ (n := n + 2) (List.getElem?_eq_getElem (by omega)), tickSubSteps_txPin]
    exact Option.some.inj hx

/-- The run of the loop-back through the frame of the oldest byte of TXB. -/
theorem LoopReady.run {s : State} (h : LoopReady s) {b : Byte} {rest : ByteSeq}
    (hc : s.txb.BeginsWith (b :: rest)) {k : Nat} (hk : k ≤ 45) :
    runLoopback k s = .next (afterTicks ((loopFrame b).take k) s) :=
  runLoopback_eq h.active (fun _ _ hx => h.txPin_eq hc hx) hk

/-- Three ticks behind TX.IDLE the receiver is where the frame on the wire begins. -/
theorem LoopReady.before_frame {s : State} (h : LoopReady s) :
    Inv (afterTicks (List.replicate 3 high) s) ∧ (afterTicks (List.replicate 3 high) s).rxPhase = .idle ∧
      (afterTicks (List.replicate 3 high) s).rxLast = high := by
  refine ⟨afterTicks_inv h.inv _, (idle_afterTicks_high h.inv h.rxIdle 3).1, ?_⟩
  rw [List.replicate_succ', afterTicks_append, afterTicks_cons, afterTicks_nil, tickSubSteps_rxLast]

/-- Behind the frame of a byte both machines are idle again, and TXB begins with the next (R118, R119). -/
theorem LoopReady.behind_frame {s : State} (h : LoopReady s) {b : Byte} {rest : ByteSeq}
    (hc : s.txb.BeginsWith (b :: rest)) :
    LoopReady (afterTicks ((loopFrame b).take 45) s) ∧
      (afterTicks ((loopFrame b).take 45) s).txb.BeginsWith rest := by
  have hsend := h.sending hc (n := 43) le_rfl
  have hbefore := (h.sending hc (n := 42) (by decide)).level
  have hlast : afterTicks ((loopFrame b).take 45) s = tickSubSteps high (afterTicks ((loopFrame b).take 44) s) :=
    afterTicks_take_succ (n := 44) rfl s
  obtain ⟨hinv, hp, hl⟩ := h.before_frame
  have htime := frame_rxOnTime hinv hp hl b (evenParity b) high (n := 39) le_rfl
  refine ⟨⟨afterTicks_inv h.inv _, ?_, ?_, ?_, hsend.onTime.phase, ?_, ?_⟩, hsend.content⟩
  · rw [afterTicks_active]; exact h.active
  · rw [hlast, take_loopFrame b (m := 41) (by decide), afterTicks_append]
    exact (htime.tick_stop high).1
  · rw [hlast, tickSubSteps_rxLast]
  · rw [hsend.onTime.wait]; decide
  · rw [hlast, tickSubSteps_txPin]
    exact (Option.some.inj hbefore).symm

/-- The byte at place `j` of TXB is the oldest one 45 ticks per byte later (R118). -/
theorem LoopReady.reach {s : State} (h : LoopReady s) {j : Nat} {b : Byte} (hb : s.txb.content[j]? = some b) :
    ∃ t rest, runLoopback (45 * j) s = .next t ∧ LoopReady t ∧ t.txb.BeginsWith (b :: rest) ∧ (j = 0 → t = s) := by
  induction j generalizing s with
  | zero =>
    obtain ⟨rest, hcons⟩ := List.head?_eq_some_iff.mp (List.head?_eq_getElem?.trans hb)
    exact ⟨s, rest, rfl, h, hcons ▸ .self _, fun _ => rfl⟩
  | succ j ih =>
    have hne : s.txb.content ≠ [] := fun hnil => by simp [hnil] at hb
    obtain ⟨b0, rest, hcons⟩ := List.exists_cons_of_ne_nil hne
    have hc : s.txb.BeginsWith (b0 :: rest) := hcons ▸ .self _
    obtain ⟨hready, more, hmore⟩ := h.behind_frame hc
    rw [hcons, List.getElem?_cons_succ] at hb
    have hlt := (List.getElem?_eq_some_iff.mp hb).1
    obtain ⟨t, rest', hrun, ht, hct, -⟩ := ih hready (by rw [hmore, List.getElem?_append_left hlt, hb])
    refine ⟨t, rest', ?_, ht, hct, nofun⟩
    have hsum : 45 * (j + 1) = 45 + 45 * j := by omega
    rw [hsum, runLoopback_add (h.run hc le_rfl), hrun]

/-- Each tick of the frame of a byte passes without an anomaly (R99, R119). -/
theorem LoopReady.noAnomaly {s : State} (h : LoopReady s) (b : Byte) {k : Nat} (hk : k < 45) :
    NoAnomaly (afterTicks ((loopFrame b).take (k + 1)) s).events := by
  have hlen := length_loopFrame b
  have hget : (loopFrame b)[k]? = some (loopFrame b)[k] := List.getElem?_eq_getElem (by omega)
  rw [afterTicks_take_succ hget]
  by_cases hlt : k < 3
  · have htake : (loopFrame b).take k = List.replicate k high := by
      rw [loopFrame, List.take_append_of_le_length (by simp; omega), List.take_replicate, min_eq_left (by omega)]
    rw [htake]
    exact tick_noAnomaly_of_idle (idle_afterTicks_high h.inv h.rxIdle k).1 _
  · obtain ⟨m, rfl⟩ := Nat.exists_eq_add_of_le (not_lt.mp hlt)
    obtain ⟨hinv, hp, hl⟩ := h.before_frame
    rw [take_loopFrame b (by omega), afterTicks_append]
    refine frame_noAnomaly hinv hp hl b (by omega) ?_
    rw [← getElem?_loopFrame b (by omega), hget]

/-- Settles O40: each byte of TXB is in turn the oldest, and its 45 ticks in loop-back are a frame on the wire. -/
theorem loopBackReproducesEveryByte : Obligations.LoopBackReproducesEveryByte := by
  unfold Obligations.LoopBackReproducesEveryByte
  intro s hinv ha hrp hrl htp htw hpin j b hb
  obtain ⟨t, rest, hrun, ht, hc, hzero⟩ := LoopReady.reach ⟨hinv, ha, hrp, hrl, htp, htw, hpin⟩ hb
  have hat {k : Nat} (hk : k ≤ 45) :
      runLoopback (45 * j + k) s = .next (afterTicks ((loopFrame b).take k) t) := by
    rw [runLoopback_add hrun, ht.run hc hk]
  obtain ⟨hinv3, hp3, hl3⟩ := ht.before_frame
  have hrec := frame_byteReceived hinv3 hp3 hl3 b (evenParity b) high
  rw [← afterTicks_append, ← take_loopFrame b (by decide)] at hrec
  refine ⟨⟨_, hat (by decide), ?_⟩, ⟨_, _, hat (by decide), hat (by decide), hrec.reported, hrec.content, ?_⟩, ?_⟩
  · rw [afterTicks_take_succ (n := 33) (List.getElem?_eq_getElem (by rw [length_loopFrame]; decide))]
    exact (ht.sending hc (n := 31) (by decide)).txByte_mem _
  · intro hj hempty
    obtain rfl := hzero hj
    have hkeep := (idle_afterTicks_high hinv hrp 3).2 ((content_eq_nil_iff _).mp hempty)
    rw [hrec.content, hkeep, hempty, List.nil_append]
  · intro k hk hk'
    obtain ⟨i, rfl⟩ := Nat.exists_eq_add_of_le hk
    rw [Nat.add_assoc, Nat.add_comm 1 i]
    exact ⟨_, hat (by omega), ht.noAnomaly b (by omega)⟩

end Sys2Proof.Machine
end

section
/-! PROOFS. The transmitter's dispatch and its phase actions (spec/42_transmitter.md R110 to R117): what each operation
answers when it is invoked by name. -/

namespace Sys2Proof.Machine

open Sys2Proof

/-- The phase action is the operation that the phase names (R68, R110). -/
theorem exec_txAction (p : Phase) (s : State) : exec (txAction p) s = .next (txAct p s) := by
  cases p <;> rfl

theorem txIdle_of_unread {s : State} (h : s.txb.rd ≠ s.txb.wr) :
    txIdle s = { s with txPhase := .start, txWait := 1 } := if_neg h

theorem txIdle_of_drained {s : State} (h : s.txb.rd = s.txb.wr) : txIdle s = { s with txb := rbClear s.txb } :=
  if_pos h

/-- TX.DATA before the eighth bit, as one update (R115). -/
theorem txData_eq_of_more {s : State} (h : cursorNext s.txBit ≠ cursorDone) :
    txData s = { txPutBit (s.txb.slot s.txb.rd) s with txWait := 4 } := by
  rw [txData_eq]
  dsimp only
  rw [if_neg h]
  rfl

/-- TX.DATA at the eighth bit, as one update (R115). -/
theorem txData_eq_of_done {s : State} (h : cursorNext s.txBit = cursorDone) :
    txData s = { txPutBit (s.txb.slot s.txb.rd) s with
      txPhase := .parity
      txWait := 4
      txb := rbAdv s.txb
      events := s.events ++ [.txByte (s.txb.slot s.txb.rd)] } := by
  rw [txData_eq]
  dsimp only
  rw [if_pos h]
  rfl

/-- Settles O10: the decrement leaves a wait of 2 or more above 0, and takes 1 and 0 to 0. -/
theorem transmitterDispatchWaitsThenActs : Obligations.TransmitterDispatchWaitsThenActs := by
  unfold Obligations.TransmitterDispatchWaitsThenActs
  refine fun s => ⟨txDispatch_of_waits, fun h => ?_⟩
  rw [txDispatch_of_acts h, exec_txAction]

/-- Settles O36: the two branches of TX.IDLE. -/
theorem txIdleStartsOrReclaims : Obligations.TxIdleStartsOrReclaims := by
  unfold Obligations.TxIdleStartsOrReclaims
  intro s
  rw [exec_txIdle, execTxIdle]
  constructor
  · intro hunread; rw [txIdle_of_unread hunread]
  · intro hdrained; rw [txIdle_of_drained hdrained]; rfl

/-- Settles O37: the eighth bit is the one behind which the cursor is 0. -/
theorem txDataDrivesOneBit : Obligations.TxDataDrivesOneBit := by
  unfold Obligations.TxDataDrivesOneBit
  intro s b x done
  rw [exec_txData, execTxData]
  by_cases hdone : done
  · rw [txData_eq_of_done hdone]
    simp only [if_pos hdone]
    rfl
  · rw [txData_eq_of_more hdone]
    simp only [if_neg hdone]
    rfl

/-- Settles O38: the three operations are these updates. -/
theorem txStartParityAndStopDriveTheirLevels : Obligations.TxStartParityAndStopDriveTheirLevels := by
  unfold Obligations.TxStartParityAndStopDriveTheirLevels
  exact fun s => ⟨exec_txStart s, exec_txParity s, exec_txStop s⟩

end Sys2Proof.Machine
end

section
/-! PROOFS. The frame of the oldest byte of TXB on the pin (spec/42_transmitter.md R118), from any state in which the
transmitter is idle and TXB's storage is canonical: nothing is asked of the receiver. -/

namespace Sys2Proof.Machine

open Sys2Proof

/-! TXB's storage and its read index through a tick. -/

theorem cmReply_txb (i : Nat) (q : ByteSeq) (s : State) : (cmReply i q s).txb = (rbAppend s.txb q).1 := by
  rw [cmReply, rbAppend]
  by_cases hfit : q.length ≤ (rbFree s.txb).toNat
  · rw [if_pos hfit]; rfl
  · rw [if_neg hfit]; rfl

/-- What CM.SCAN can do to the state: nothing, or report one match and answer it (R131). -/
theorem scanFrom_state_cases (es : List QueryTableEntry) (i : Nat) (c : Bool) (s : State) :
    (scanFrom i c s es).state = s ∨
      ∃ j q, (scanFrom i c s es).state = cmReply j q (State.emit (.matched j) s) := by
  induction es generalizing i c with
  | nil => exact .inl rfl
  | cons e rest ih =>
    unfold scanFrom
    split
    · exact ih _ _
    · split
      · exact .inr ⟨i, e.reply, rfl⟩
      · exact ih _ _

/-- The matcher leaves TXB's read index: what it writes to TXB is at most one reply (R133). -/
theorem cmGate_txb_rd (s : State) : (cmGate s).txb.rd = s.txb.rd := by
  unfold cmGate
  split
  · dsimp only
    rw [(cmClear_frame _ _ _).2, cmScan]
    rcases scanFrom_state_cases s.table 0 false s with hnone | ⟨j, q, hreply⟩
    · rw [hnone]
    · rw [hreply, cmReply_txb, rbAppend_rd, emit_txb]
  · rfl

theorem tick_txb_rd (x : Level) (s : State) : (tickSubSteps x s).txb.rd = (transmitted x s).txb.rd :=
  cmGate_txb_rd (transmitted x s)

/-- A tick keeps the canonical form of TXB's storage, whatever RXB's is. -/
theorem tick_txbMemory {s : State} (h : s.txb.mem.wf = true) (x : Level) :
    (tickSubSteps x s).txb.mem.wf = true := by
  obtain ⟨-, -, -, -, -, htxb⟩ := latched_eq x s
  have hmem : (transmitted x s).txb.mem.wf = true := by rwa [transmitted, txDispatch_txb_mem, htxb]
  exact (cmGate_wf hmem).1

/-- A phase action leaves TXB, but for TX.IDLE on a drained buffer and TX.DATA at the last bit (R113, R115). -/
theorem txAct_txb {p : Phase} {s : State} (hidle : p = .idle → s.txb.rd ≠ s.txb.wr)
    (hdata : p = .data → cursorNext s.txBit ≠ cursorDone) : (txAct p s).txb = s.txb := by
  cases p with
  | idle => rw [txAct, txIdle_of_unread (hidle rfl)]
  | start => rfl
  | data => exact txData_txb_of_more (hdata rfl)
  | parity => rfl
  | stop => rfl

/-- The read index stands in a tick in which the transmitter neither reclaims TXB nor ends a byte (R113, R115). -/
theorem tick_txb_rd_of_kept {s : State} (hidle : s.txPhase = .idle → s.txb.rd ≠ s.txb.wr)
    (hdata : s.txPhase = .data → s.txWait.toNat ≤ 1 → cursorNext s.txBit ≠ cursorDone) (x : Level) :
    (tickSubSteps x s).txb.rd = s.txb.rd := by
  rw [tick_txb_rd]
  by_cases hw : s.txWait.toNat ≤ 1
  · rw [transmitted_of_acts hw, txAct_txb, txOpened_txb]
    · rwa [txOpened_txb]
    · rw [txOpened_txBit]; exact fun hp => hdata hp hw
  · rw [transmitted_of_waits (by omega)]
    exact congrArg RingBuf.rd (txOpened_txb x s)

/-- TX.IDLE decides no level (R113): an idle transmitter keeps its own, waiting or not. -/
theorem tick_txLevel_of_idle {s : State} (hp : s.txPhase = .idle) (x : Level) :
    (tickSubSteps x s).txLevel = s.txLevel := by
  obtain ⟨-, -, -, hlevel, -⟩ := tick_transmitter_eq x s
  rw [hlevel]
  by_cases hw : s.txWait.toNat ≤ 1
  · have hidle (t : State) : (txIdle t).txLevel = t.txLevel := by unfold txIdle; split <;> rfl
    rw [transmitted_of_acts hw, hp, txAct, hidle, txOpened_txLevel]
  · rw [transmitted_of_waits (by omega)]
    exact txOpened_txLevel x s

/-! The run along the frame. -/

/-- A trace that is not empty ends with a tick. -/
theorem afterTicks_of_length_succ {xs : List Level} {n : Nat} (h : xs.length = n + 1) (s : State) :
    ∃ ys x, ys.length = n ∧ afterTicks xs s = tickSubSteps x (afterTicks ys s) := by
  have hlast : xs[n]? = some xs[n] := List.getElem?_eq_getElem (by omega)
  refine ⟨xs.take n, xs[n], by rw [List.length_take]; omega, ?_⟩
  rw [← afterTicks_take_succ hlast, ← h, List.take_length]

/-- An idle transmitter that finds a byte begins its frame in the second tick (R113, R114). -/
theorem sending_of_idle {s : State} (hmem : s.txb.mem.wf = true) (hp : s.txPhase = .idle) (hw : s.txWait.toNat ≤ 1)
    (hne : s.txb.rd ≠ s.txb.wr) (x y : Level) :
    Sending (s.txb.slot s.txb.rd) (rbAdv s.txb).content 0 (tickSubSteps y (tickSubSteps x s)) ∧
      (tickSubSteps y (tickSubSteps x s)).txb.rd = s.txb.rd := by
  obtain ⟨hstart, hone, -, hcontent⟩ := tick_txIdle hmem hp hw hne x
  rw [content_eq_cons hne] at hcontent
  refine ⟨tick_txStart (tick_txbMemory hmem x) hstart (by rw [hone]; decide) hcontent y, ?_⟩
  rw [tick_txb_rd_of_kept (by simp [hstart]) (by simp [hstart]),
    tick_txb_rd_of_kept (fun _ => hne) (by simp [hp])]

/-- Along any trace the transmitter stays on the timeline to the end of the stop bit (R118). -/
theorem Sending.run_of_txbMemory {b : Byte} {rest : ByteSeq} {n : Nat} {s : State} (h : Sending b rest n s)
    (hmem : s.txb.mem.wf = true) {xs : List Level} (hlen : n + xs.length ≤ 43) :
    Sending b rest (n + xs.length) (afterTicks xs s) := by
  induction xs generalizing n s with
  | nil => exact h
  | cons x xs ih =>
    rw [List.length_cons] at hlen ⊢
    have hsum : n + (xs.length + 1) = n + 1 + xs.length := by omega
    rw [hsum, afterTicks_cons]
    exact ih (h.tick hmem (by omega) x) (tick_txbMemory hmem x) (by omega)

/-- Before the tick of the last data bit the read index stands (R115). -/
theorem Sending.tick_keeps_rd {b : Byte} {rest : ByteSeq} {n : Nat} {s : State} (h : Sending b rest n s)
    (hn : n < 31) (x : Level) : (tickSubSteps x s).txb.rd = s.txb.rd := by
  have hdata : s.txPhase = .data := h.onTime.phase.trans (if_pos (by omega))
  refine tick_txb_rd_of_kept (by simp [hdata]) (fun _ hacts => ?_) x
  rw [h.onTime.cursor_next (h.onTime.mod_of_acts hacts)]
  exact mt frameCursor_eq_done_iff.mp (by omega)

theorem Sending.run_keeps_rd {b : Byte} {rest : ByteSeq} {n : Nat} {s : State} (h : Sending b rest n s)
    (hmem : s.txb.mem.wf = true) {xs : List Level} (hlen : n + xs.length ≤ 31) :
    (afterTicks xs s).txb.rd = s.txb.rd := by
  induction xs generalizing n s with
  | nil => rfl
  | cons x xs ih =>
    rw [List.length_cons] at hlen
    rw [afterTicks_cons, ih (h.tick hmem (by omega) x) (tick_txbMemory hmem x) (by omega),
      h.tick_keeps_rd (by omega)]

/-- The tick of the last data bit advances the read index (R115). -/
theorem Sending.tick_advances_rd {b : Byte} {rest : ByteSeq} {s : State} (h : Sending b rest 31 s) (x : Level) :
    (tickSubSteps x s).txb.rd = s.txb.rd + 1 := by
  have hdone : cursorNext (txOpened x s).txBit = cursorDone := by
    rw [txOpened_txBit, h.onTime.cursor_next rfl]; rfl
  rw [tick_txb_rd, h.onTime.transmitted_data (by decide) rfl, (txData_of_done hdone).1, txOpened_txb]
  rfl

/-! The levels of the frame. -/

theorem stimFrame_five (b : Byte) (p stop : Level) : stimFrame b p stop 5 = stimFrame b p stop 4 ++ [stop] := rfl

/-- Behind any trace the decided level is the frame's of that tick; the stop level stands one tick longer than its
period, since TX.IDLE decides none (R113, R118). -/
theorem Sending.run_txLevel {b : Byte} {rest : ByteSeq} {s : State} (h : Sending b rest 0 s)
    (hmem : s.txb.mem.wf = true) {xs : List Level} (hlen : xs.length < 45) :
    some (afterTicks xs s).txLevel = (stimFrame b (evenParity b) high 5)[xs.length]? := by
  have hlevel {ys : List Level} (hle : ys.length ≤ 43) :
      some (afterTicks ys s).txLevel = (stimFrame b (evenParity b) high 4)[ys.length]? := by
    have hsend := h.run_of_txbMemory hmem (xs := ys) (by omega)
    rw [Nat.zero_add] at hsend
    rw [getElem?_stimFrame, hsend.level]
  have hframe : (stimFrame b (evenParity b) high 4).length = 44 := rfl
  by_cases hle : xs.length ≤ 43
  · rw [hlevel hle, stimFrame_five, List.getElem?_append_left (by omega)]
  · have hend : xs.length = 44 := by omega
    obtain ⟨ys, x, hys, hrun⟩ := afterTicks_of_length_succ hend s
    have hsend := h.run_of_txbMemory hmem (xs := ys) (by omega)
    rw [hys] at hsend
    rw [hrun, tick_txLevel_of_idle hsend.onTime.phase, hlevel (by omega), hys, hend]
    rfl

/-- Settles O39: the second tick begins the frame, each later one decides its next level, and the pin shows it a tick
later; the 32nd of the frame's ticks takes the byte from TXB. -/
theorem transmittedFrameIsTheWireFrame : Obligations.TransmittedFrameIsTheWireFrame := by
  unfold Obligations.TransmittedFrameIsTheWireFrame
  intro s xs ha hp hw hne hmem b
  have hready : s.txWait.toNat ≤ 1 := by rw [hw]; decide
  match xs with
  | [] | [_] => exact ⟨by simp, by simp⟩
  | x :: y :: zs =>
    obtain ⟨hsend, hrd⟩ := sending_of_idle hmem hp hready hne x y
    have hmem2 := tick_txbMemory (tick_txbMemory hmem x) y
    rw [runTrace_eq ha, afterTicks_cons, afterTicks_cons]
    refine ⟨fun k hk hlen => ⟨_, rfl, ?_⟩, fun hlen => ⟨_, rfl, ?_⟩⟩
    · obtain ⟨ys, z, rfl, hrun⟩ := afterTicks_of_length_succ (n := k) (Nat.add_right_cancel (m := 2) hlen) _
      rw [hrun, tickSubSteps_txPin]
      exact hsend.run_txLevel hmem2 hk
    · obtain ⟨ys, z, hys, hrun⟩ := afterTicks_of_length_succ (n := 31) (Nat.add_right_cancel (m := 2) hlen) _
      have hlast := hsend.run_of_txbMemory hmem2 (xs := ys) (by omega)
      rw [hys] at hlast
      rw [hrun, hlast.tick_advances_rd, hsend.run_keeps_rd hmem2 (by omega), hrd]
      exact ⟨rfl, hlast.txByte_mem z⟩

end Sys2Proof.Machine
end

section
/-! PROOFS. The matcher and the timeout invoked by name (spec/43_matcher.md R130 to R136): what the scan finds in the
table, what a reply leaves in TXB, and which end the gate takes (R139). -/

namespace Sys2Proof.Machine

open Sys2Proof

/-! The timeout. -/

theorem toArm_of_stopped {s : State} (h : s.rxTimeout = 0) : toArm s = { s with rxTimeout := 480 } := if_pos h

theorem toArm_of_running {s : State} (h : s.rxTimeout ≠ 0) : toArm s = s := if_neg h

/-- Settles O41: the two branches of TO.ARM, and the counter of TO.TICK, which stops at 0. -/
theorem timeoutArmsOnceAndCountsDown : Obligations.TimeoutArmsOnceAndCountsDown := by
  unfold Obligations.TimeoutArmsOnceAndCountsDown
  intro s
  rw [exec_toArm, execToArm]
  refine ⟨fun hstopped => ?_, fun hrunning => ?_, _, exec_toTick s, rfl, countDown_toNat _⟩
  · rw [toArm_of_stopped hstopped]
  · rw [toArm_of_running hrunning]

/-! CM.CMP. -/

theorem exec_cmCmp_of_fit {s : State} {i : Nat} {e : QueryTableEntry} (he : s.table[i]? = some e)
    (h : e.query.length ≤ s.rxb.content.length) :
    exec (.cmCmp i) s = .next { s with ret := .equal (decide (s.rxb.content.take e.query.length = e.query)) } := by
  rw [content_length] at h
  rw [exec_cmCmp, execCmCmp, State.entry, he, ← cmCmp_eq h]
  exact if_pos h

theorem exec_cmCmp_of_longer {s : State} {i : Nat} {e : QueryTableEntry} (he : s.table[i]? = some e)
    (h : s.rxb.content.length < e.query.length) : exec (.cmCmp i) s = .refused .cmpBeyondContent := by
  rw [content_length] at h
  rw [exec_cmCmp, execCmCmp, State.entry, he]
  exact if_neg (Nat.not_le.mpr h)

/-- Settles O44: CM.CMP of a query that fits is equality with the content's head (`cmCmp_eq`). -/
theorem compareIsEqualityWithTheHead : Obligations.CompareIsEqualityWithTheHead := by
  unfold Obligations.CompareIsEqualityWithTheHead
  intro s i
  refine ⟨fun e he => ⟨exec_cmCmp_of_fit he, exec_cmCmp_of_longer he⟩, fun hnone => ?_⟩
  rw [exec_cmCmp, execCmCmp, State.entry, hnone]

/-! CM.REPLY. -/

theorem exec_cmReply_of_entry {s : State} {i : Nat} {e : QueryTableEntry} (he : s.table[i]? = some e) :
    exec (.cmReply i) s = .next (cmReply i e.reply s) := by
  rw [exec_cmReply, execCmReply, State.entry, he]

/-- A reply that fits is written to TXB (R133). -/
theorem cmReply_of_fit {q : ByteSeq} {s : State} (h : q.length ≤ 15 - s.txb.content.length) (i : Nat) :
    cmReply i q s = { s with txb := rbWriteAll s.txb q } := by
  rw [content_length, ← rbFree_toNat] at h
  rw [cmReply, rbAppend, if_pos h]
  rfl

/-- A reply that does not fit is dropped whole and reported (R133, R176). -/
theorem cmReply_of_not_fit {q : ByteSeq} {s : State} (h : 15 - s.txb.content.length < q.length) (i : Nat) :
    cmReply i q s = State.emit (.txOverflow i) s := by
  rw [content_length, ← rbFree_toNat] at h
  rw [cmReply, rbAppend_of_not_fit h]
  rfl

/-- A sequence no longer than the free space stands behind the content (R84). -/
theorem content_rbWriteAll_of_fit {b : RingBuf} (hmem : b.mem.wf = true) {q : ByteSeq}
    (h : q.length ≤ 15 - b.content.length) : (rbWriteAll b q).content = b.content ++ q := by
  have hle := rbCount_le b
  rw [content_length] at h
  exact content_rbWriteAll hmem (by omega)

/-- Settles O45: the reply is written from TXB's write index on, which leaves the other slots, or not at all. -/
theorem replyIsAppendedOrDroppedWhole : Obligations.ReplyIsAppendedOrDroppedWhole := by
  unfold Obligations.ReplyIsAppendedOrDroppedWhole
  intro s i hmem
  refine ⟨fun e he => ?_, fun hnone => ?_⟩
  · rw [exec_cmReply_of_entry he]
    refine ⟨fun hfit => ⟨_, rfl, ?_⟩, fun hnofit => ?_⟩
    · rw [cmReply_of_fit hfit]
      exact ⟨rfl, content_rbWriteAll_of_fit hmem hfit, rbWriteAll_rd _ _, rbWriteAll_slot_other hmem e.reply⟩
    · rw [cmReply_of_not_fit hnofit]; rfl
  · rw [exec_cmReply, execCmReply, State.entry, hnone]

/-! CM.CLEAR. -/

/-- The events of a clear (R134). -/
def clearEvents : ClearReason → List Event
  | .matched => [.clear .matched]
  | .noMatch => [.clear .noMatch]
  | .timeout => [.timeout, .clear .timeout]

/-- The state change of a clear is the same for each reason (R134). -/
theorem clearFor_eq (r : ClearReason) (s : State) :
    clearFor r s = { s with
      events := s.events ++ clearEvents r
      rxb := { s.rxb with rd := 0, wr := 0 }
      rxTimeout := 0 } := by
  cases r with
  | timeout =>
    have hevents : s.events ++ [.timeout] ++ [.clear .timeout] = s.events ++ clearEvents .timeout :=
      List.append_assoc ..
    rw [← hevents]
    rfl
  | matched => rfl
  | noMatch => rfl

theorem cmClear_of_match (c : Bool) (s : State) : cmClear true c s = clearFor .matched s := rfl

theorem cmClear_of_noMatch (s : State) : cmClear false false s = clearFor .noMatch s := rfl

theorem cmClear_of_expired {s : State} (h : s.rxTimeout = 0) : cmClear false true s = clearFor .timeout s := by
  have hexp : timeoutExpired s = true := decide_eq_true h
  rw [cmClear, hexp]
  rfl

/-- An unmatched command that could still match is kept while the timeout runs (R134, R137). -/
theorem cmClear_of_running {s : State} (h : s.rxTimeout ≠ 0) : cmClear false true s = s := by
  have hexp : timeoutExpired s = false := decide_eq_false h
  rw [cmClear, hexp]
  rfl

/-- Settles O46: one clear or none for each value of the three conditions. -/
theorem clearDecidesByPriority : Obligations.ClearDecidesByPriority := by
  unfold Obligations.ClearDecidesByPriority
  intro s m c cleared
  rw [exec_cmClear, execCmClear]
  refine ⟨?_, ?_, ?_, ?_⟩
  · rintro rfl; rw [cmClear_of_match, clearFor_eq]; rfl
  · rintro ⟨rfl, rfl⟩; rw [cmClear_of_noMatch, clearFor_eq]; rfl
  · rintro ⟨rfl, rfl, hexp⟩; rw [cmClear_of_expired hexp, clearFor_eq]; rfl
  · rintro ⟨rfl, rfl, hrun⟩; rw [cmClear_of_running hrun]

/-! CM.SCAN. -/

/-- The entry needs more bytes than the content has: it makes `could_match` true (R131). -/
def longerThan (content : ByteSeq) (e : QueryTableEntry) : Bool := decide (content.length < e.query.length)

theorem someEntryLonger_iff (s : State) :
    someEntryLonger s ↔ s.table.any (longerThan s.rxb.content) = true := by
  simp [someEntryLonger, longerThan]

/-- Entry `i` of a table is the first in table order whose whole query is at the head of a content (R131). -/
structure FirstMatch (es : List QueryTableEntry) (content : ByteSeq) (i : Nat) (e : QueryTableEntry) : Prop where
  entry : es[i]? = some e
  isMatch : queryMatches content e = true
  first : ∀ j f, j < i → es[j]? = some f → queryMatches content f = false

/-- The scan ends at an entry that matches (R131). -/
theorem scanFrom_cons_of_match {e : QueryTableEntry} {s : State} (h : queryMatches s.rxb.content e = true) (i : Nat)
    (c : Bool) (es : List QueryTableEntry) :
    scanFrom i c s (e :: es) =
      { state := cmReply i e.reply (State.emit (.matched i) s), matched := true, couldMatch := c } := by
  simp only [queryMatches, Bool.and_eq_true, decide_eq_true_eq, content_length] at h
  obtain ⟨hlen, hhead⟩ := h
  rw [scanFrom, if_neg (Nat.not_lt.mpr hlen), cmCmp_eq hlen, if_pos (decide_eq_true hhead)]

/-- The scan passes an entry that does not match, and notes whether it is longer than the content (R131). -/
theorem scanFrom_cons_of_no_match {e : QueryTableEntry} {s : State} (h : queryMatches s.rxb.content e = false) (i : Nat)
    (c : Bool) (es : List QueryTableEntry) :
    scanFrom i c s (e :: es) = scanFrom (i + 1) (c || longerThan s.rxb.content e) s es := by
  rw [scanFrom, longerThan, content_length]
  by_cases hlen : (rbCount s.rxb).toNat < e.query.length
  · rw [if_pos hlen, decide_eq_true hlen, Bool.or_true]
  · have hle := Nat.not_lt.mp hlen
    have hhead : ¬ cmCmp s.rxb e.query = true := by
      rw [cmCmp_eq hle]
      simpa [queryMatches, hle] using h
    rw [if_neg hlen, if_neg hhead, decide_eq_false hlen, Bool.or_false]

/-- The scan passes entries that do not match (R131). -/
theorem scanFrom_append_of_none {es : List QueryTableEntry} {s : State}
    (h : ∀ e ∈ es, queryMatches s.rxb.content e = false) (i : Nat) (c : Bool) (fs : List QueryTableEntry) :
    scanFrom i c s (es ++ fs) = scanFrom (i + es.length) (c || es.any (longerThan s.rxb.content)) s fs := by
  induction es generalizing i c with
  | nil => simp
  | cons e es ih =>
    obtain ⟨he, hes⟩ := List.forall_mem_cons.mp h
    rw [List.cons_append, scanFrom_cons_of_no_match he, ih hes, List.length_cons, List.any_cons, Bool.or_assoc,
      Nat.add_assoc, Nat.add_comm 1]

/-- With no entry whose whole query is at the head of RXB the scan does nothing (R131). -/
theorem cmScan_of_none {s : State} (h : noEntryMatches s) :
    cmScan s = { state := s, matched := false, couldMatch := s.table.any (longerThan s.rxb.content) } := by
  have hall := scanFrom_append_of_none h 0 false []
  rw [List.append_nil] at hall
  rw [cmScan, hall, Bool.false_or]
  rfl

/-- With a first entry whose whole query is at the head of RXB the scan reports and answers it (R131). -/
theorem cmScan_of_first {s : State} {i : Nat} {e : QueryTableEntry} (h : FirstMatch s.table s.rxb.content i e) :
    cmScan s =
      { state := cmReply i e.reply (State.emit (.matched i) s)
        matched := true
        couldMatch := (s.table.take i).any (longerThan s.rxb.content) } := by
  obtain ⟨hi, rfl⟩ := List.getElem?_eq_some_iff.mp h.entry
  have hbefore : ∀ f ∈ s.table.take i, queryMatches s.rxb.content f = false := by
    intro f hf
    obtain ⟨j, hj, rfl⟩ := List.mem_take_iff_getElem.mp hf
    exact h.first j _ (by omega) (List.getElem?_eq_getElem (by omega))
  have hlen : (s.table.take i).length = i := List.length_take_of_le hi.le
  have hscan := scanFrom_append_of_none hbefore 0 false (s.table.drop i)
  rw [List.take_append_drop, List.drop_eq_getElem_cons hi, hlen, scanFrom_cons_of_match h.isMatch, Nat.zero_add,
    Bool.false_or] at hscan
  exact hscan

/-- Settles O43: the entries before the first match, or all of them, are passed. -/
theorem scanTakesTheFirstMatchingEntry : Obligations.ScanTakesTheFirstMatchingEntry := by
  unfold Obligations.ScanTakesTheFirstMatchingEntry
  intro s longer
  rw [exec_cmScan, execCmScan]
  refine ⟨fun hnone => ?_, fun i e he hmatch hfirst => ⟨_, exec_cmReply_of_entry he, ?_⟩⟩
  · rw [cmScan_of_none hnone]; rfl
  · rw [cmScan_of_first ⟨he, hmatch, hfirst⟩]; rfl

/-! CM.GATE. -/

/-- The scan leaves the returned value: only CM.SCAN invoked by name writes it (R131). -/
theorem cmScan_ret (s : State) : (cmScan s).state.ret = s.ret := by
  obtain ⟨-, -, -, -, -, -, -, -, -, -, -, -, -, -, -, -, hret⟩ := (scanFrom_frame s.table 0 false s).1
  exact hret

theorem cmGate_of_open {s : State} (hp : s.rxPhase = .idle) (hne : s.rxb.rd ≠ s.rxb.wr) :
    cmGate s = cmClear (cmScan s).matched (cmScan s).couldMatch (cmScan s).state := if_pos ⟨hp, hne⟩

/-- The gate on a command that no entry matches: CM.CLEAR alone (R130, R131). -/
theorem cmGate_of_none {s : State} (hp : s.rxPhase = .idle) (hc : s.rxb.content ≠ []) (h : noEntryMatches s) :
    cmGate s = cmClear false (s.table.any (longerThan s.rxb.content)) s := by
  rw [cmGate_of_open hp (mt (content_eq_nil_iff _).mpr hc), cmScan_of_none h]

/-- The gate on a command that an entry matches: its reply, and a clear (R139). -/
theorem cmGate_of_first {s : State} {i : Nat} {e : QueryTableEntry} (hp : s.rxPhase = .idle)
    (hc : s.rxb.content ≠ []) (h : FirstMatch s.table s.rxb.content i e) :
    cmGate s = clearFor .matched (cmReply i e.reply (State.emit (.matched i) s)) := by
  rw [cmGate_of_open hp (mt (content_eq_nil_iff _).mpr hc), cmScan_of_first h, cmClear_of_match]

/-- A partial command is kept while the timeout runs (R137, R139). -/
theorem cmGate_of_partial {s : State} (hp : s.rxPhase = .idle) (hc : s.rxb.content ≠ []) (h : noEntryMatches s)
    (hlonger : someEntryLonger s) (hrun : s.rxTimeout ≠ 0) : cmGate s = s := by
  rw [cmGate_of_none hp hc h, (someEntryLonger_iff s).mp hlonger, cmClear_of_running hrun]

/-- A partial command is cleared when the timeout has run out (R137, R139). -/
theorem cmGate_of_expired {s : State} (hp : s.rxPhase = .idle) (hc : s.rxb.content ≠ []) (h : noEntryMatches s)
    (hlonger : someEntryLonger s) (hexp : s.rxTimeout = 0) : cmGate s = clearFor .timeout s := by
  rw [cmGate_of_none hp hc h, (someEntryLonger_iff s).mp hlonger, cmClear_of_expired hexp]

/-- Settles O42: an open gate is CM.CLEAR on the scan's results, and the scan itself leaves the returned value. -/
theorem gateOpensOnlyWhenIdleWithBytes : Obligations.GateOpensOnlyWhenIdleWithBytes := by
  unfold Obligations.GateOpensOnlyWhenIdleWithBytes
  intro s
  rw [exec_cmGate, execCmGate]
  refine ⟨fun hclosed => ?_, fun ⟨hp, hne⟩ => ?_⟩
  · rw [cmGate, if_neg hclosed]
  · refine ⟨_, _, (cmScan s).matched, (cmScan s).couldMatch, exec_cmScan s, rfl, exec_cmClear .., ?_⟩
    rw [cmGate_of_open hp hne, ← cmScan_ret s]

/-- Settles O47: the scan answers the first match, and the clear for MATCH leaves TXB. -/
theorem matcherAnswersTheFirstMatch : Obligations.MatcherAnswersTheFirstMatch := by
  unfold Obligations.MatcherAnswersTheFirstMatch
  intro s i e hp hc hmem he hmatch hfirst
  refine ⟨_, exec_cmGate s, ?_⟩
  obtain ⟨-, hrxb, -⟩ := cmReply_frame i e.reply (State.emit (.matched i) s)
  rw [cmGate_of_first hp hc ⟨he, hmatch, hfirst⟩, clearFor_eq, hrxb]
  refine ⟨(content_eq_nil_iff _).mpr rfl, rfl, rfl, rfl, rfl, fun hfit => ?_, fun hnofit => ?_⟩
  · rw [cmReply_of_fit (by exact hfit)]
    exact ⟨content_rbWriteAll_of_fit hmem hfit, List.append_assoc ..⟩
  · rw [cmReply_of_not_fit (by exact hnofit)]
    refine ⟨rfl, ?_⟩
    simp [clearEvents]

/-- Settles O48: with no match CM.CLEAR decides, by whether an entry is longer and by the timeout. -/
theorem matcherKeepsOrClearsTheUnmatched : Obligations.MatcherKeepsOrClearsTheUnmatched := by
  unfold Obligations.MatcherKeepsOrClearsTheUnmatched
  intro s cleared hp hc hnone
  rw [exec_cmGate, execCmGate]
  refine ⟨fun hlonger hrun => ?_, fun hlonger hexp => ?_, fun hshort => ?_⟩
  · rw [cmGate_of_partial hp hc hnone hlonger hrun]
  · rw [cmGate_of_expired hp hc hnone hlonger hexp, clearFor_eq]; rfl
  · rw [someEntryLonger_iff, Bool.not_eq_true] at hshort
    rw [cmGate_of_none hp hc hnone, hshort, cmClear_of_noMatch, clearFor_eq]; rfl

end Sys2Proof.Machine
end

section
/-! PROOFS. No received byte is lost (spec/43_matcher.md R140, spec/60_exceptions.md R175): a byte is committed only in
DATA, where the invariant leaves room in RXB. -/

namespace Sys2Proof.Machine

open Sys2Proof

/-- Whatever the phase, RXB holds no more than 5 bytes (R140). -/
theorem Inv.content_length_le {s : State} (h : Inv s) : s.rxb.content.length ≤ 5 := by
  have hq := longestQuery_le h.tableOk
  have hc := h.rxbCount
  rw [content_length]
  cases hp : s.rxPhase <;> simp only [hp, rxCountFits, Bool.or_eq_true, decide_eq_true_eq] at hc <;> omega

/-- RX.DATA loses a byte only if RXB is full (R95, R175). -/
theorem full_of_overflow_mem_rxData {s : State} (hmem : s.rxb.mem.wf = true) (h : .rxOverflow ∈ (rxData s).events) :
    .rxOverflow ∈ s.events ∨ 15 ≤ (rbCount s.rxb).toNat := by
  by_cases hdone : cursorNext s.rxBit = cursorDone
  · rw [rxData_of_done hmem hdone, List.mem_append, List.mem_singleton] at h
    refine h.imp_right fun hevent => ?_
    by_contra hroom
    rw [if_pos (by omega)] at hevent
    cases hevent
  · rw [rxData_of_more hdone] at h
    exact .inl h

/-- The receiver's turn loses a byte only if RXB is full. -/
theorem full_of_overflow_mem_received {x : Level} {s : State} (hmem : s.rxb.mem.wf = true)
    (h : .rxOverflow ∈ (received x s).events) : 15 ≤ (rbCount s.rxb).toNat := by
  by_cases hw : s.rxWait.toNat ≤ 1
  · rw [received_of_acts hw] at h
    cases hp : s.rxPhase with
    | idle => rw [hp, rxAct, rxIdle_eq] at h; simp at h
    | start =>
      rw [hp, rxAct, rxStart] at h
      split at h
      · rw [rxStartCommit_eq] at h; simp at h
      · simp [rxStartGlitch, State.emit] at h
    | data =>
      rw [hp, rxAct] at h
      exact (full_of_overflow_mem_rxData (s := opened x s) hmem h).resolve_left (by simp)
    | parity =>
      rw [hp, rxAct, rxParity_eq] at h
      dsimp only at h
      split at h <;> simp at h
    | stop =>
      rw [hp, rxAct, rxStop_eq] at h
      dsimp only at h
      split at h <;> simp at h
  · rw [received_of_waits (by omega)] at h
    simp at h

/-- Settles O55: the invariant bounds the content before the tick, where a byte is committed, and after it. -/
theorem receiveBufferNeverOverflows : Obligations.ReceiveBufferNeverOverflows := by
  unfold Obligations.ReceiveBufferNeverOverflows
  intro s t x hinv htick
  refine ⟨?_, (execTick_inv hinv htick).content_length_le⟩
  rcases execTick_cases htick with ⟨-, rfl⟩ | ⟨-, rfl⟩
  · rw [(tick_addsOthers x s).mem_iff rfl]
    intro hlost
    have hfull := full_of_overflow_mem_received hinv.rxbMemory hlost
    have hle := hinv.content_length_le
    rw [content_length] at hle
    omega
  · simp

end Sys2Proof.Machine
end

section
/-! PROOFS. A partial command (spec/43_matcher.md R136, R137): while the line is high the receiver and the transmitter
leave it alone, so the gate keeps it until the timeout runs out. -/

namespace Sys2Proof.Machine

open Sys2Proof

/-- A tick is the gate behind the turns of the receiver and the transmitter (R150). -/
theorem tick_eq_cmGate (x : Level) (s : State) : tickSubSteps x s = cmGate (transmitted x s) := rfl

/-- What the receiver leaves for the gate the transmitter leaves (R151). -/
theorem transmitted_receiver_eq (x : Level) (s : State) :
    (transmitted x s).rxPhase = (received x s).rxPhase ∧ (transmitted x s).rxTimeout = (received x s).rxTimeout ∧
      (transmitted x s).rxb = (received x s).rxb ∧ (transmitted x s).table = s.table := by
  obtain ⟨-, hp, -, -, -, hto, -, hb, -, -, -, htab, -⟩ := txDispatch_frame (latched x s)
  obtain ⟨-, -, -, -, -, -, -, -, -, -, -, htab', -⟩ := rxDispatch_frame (toTick (txDrive (beginTick x s)))
  exact ⟨hp, hto, hb, htab.trans htab'⟩

/-- A high sample leaves an idle receiver as it is, but for its wait (R90, R93). -/
theorem received_high_of_idle {s : State} (hp : s.rxPhase = .idle) :
    ∃ w, received high s = { toTick (txDrive (beginTick high s)) with rxWait := w } := by
  by_cases hw : s.rxWait.toNat ≤ 1
  · refine ⟨0, ?_⟩
    rw [received_of_acts hw, hp, rxAct, rxIdle]
    exact if_neg (by simp)
  · exact ⟨_, received_of_waits (by omega) high⟩

/-- RXB holds a command that no entry matches and that some entry is longer than; the receiver is idle (R139). -/
structure PartialCommand (s : State) : Prop where
  idle : s.rxPhase = .idle
  nonempty : s.rxb.content ≠ []
  unmatched : noEntryMatches s
  longer : someEntryLonger s

theorem PartialCommand.of_eq {s t : State} (h : PartialCommand s) (hp : t.rxPhase = .idle) (hb : t.rxb = s.rxb)
    (htab : t.table = s.table) : PartialCommand t where
  idle := hp
  nonempty := hb ▸ h.nonempty
  unmatched := by unfold noEntryMatches; rw [hb, htab]; exact h.unmatched
  longer := by unfold someEntryLonger; rw [hb, htab]; exact h.longer

/-- With the line high the gate finds the partial command as it was, and the timeout counted down (R136). -/
theorem PartialCommand.transmitted_high {s : State} (h : PartialCommand s) :
    PartialCommand (transmitted high s) ∧ (transmitted high s).rxb = s.rxb ∧
      (transmitted high s).rxTimeout.toNat = s.rxTimeout.toNat - 1 := by
  obtain ⟨hp, hto, hb, htab⟩ := transmitted_receiver_eq high s
  obtain ⟨w, hr⟩ := received_high_of_idle h.idle
  rw [hr] at hp hto hb
  exact ⟨h.of_eq (hp.trans h.idle) hb htab, hb, hto ▸ countDown_toNat _⟩

/-- While the timeout runs on, the gate does nothing (R137). -/
theorem PartialCommand.tick_of_running {s : State} (h : PartialCommand s) (hrun : 2 ≤ s.rxTimeout.toNat) :
    tickSubSteps high s = transmitted high s := by
  obtain ⟨⟨hp, hc, hnone, hlonger⟩, -, hto⟩ := h.transmitted_high
  have hleft : (transmitted high s).rxTimeout ≠ 0 := by bv_omega
  rw [tick_eq_cmGate, cmGate_of_partial hp hc hnone hlonger hleft]

/-- In the tick in which the timeout runs out, the gate clears the command (R137). -/
theorem PartialCommand.tick_of_last {s : State} (h : PartialCommand s) (hlast : s.rxTimeout.toNat ≤ 1) :
    tickSubSteps high s = clearFor .timeout (transmitted high s) := by
  obtain ⟨⟨hp, hc, hnone, hlonger⟩, -, hto⟩ := h.transmitted_high
  have hexp : (transmitted high s).rxTimeout = 0 :=
    BitVec.eq_of_toNat_eq (hto.trans (Nat.sub_eq_zero_of_le hlast))
  rw [tick_eq_cmGate, cmGate_of_expired hp hc hnone hlonger hexp]

theorem afterTicks_replicate_succ (n : Nat) (x : Level) (s : State) :
    afterTicks (List.replicate (n + 1) x) s = tickSubSteps x (afterTicks (List.replicate n x) s) := by
  rw [List.replicate_succ', afterTicks_append, afterTicks_cons, afterTicks_nil]

/-- With the line held high the command is kept while the timeout runs (R136, R137). -/
theorem PartialCommand.run {s : State} (h : PartialCommand s) {n : Nat} (hn : n < s.rxTimeout.toNat) :
    PartialCommand (afterTicks (List.replicate n high) s) ∧ (afterTicks (List.replicate n high) s).rxb = s.rxb ∧
      (afterTicks (List.replicate n high) s).rxTimeout.toNat = s.rxTimeout.toNat - n := by
  induction n with
  | zero => exact ⟨h, rfl, rfl⟩
  | succ n ih =>
    obtain ⟨hkept, hb, hto⟩ := ih (by omega)
    obtain ⟨hkept', hb', hto'⟩ := hkept.transmitted_high
    rw [afterTicks_replicate_succ, hkept.tick_of_running (by omega)]
    exact ⟨hkept', hb'.trans hb, by omega⟩

/-- Settles O49: the command is kept for all ticks but the last of the timeout, and cleared in the last. -/
theorem partialCommandIsClearedAtExpiry : Obligations.PartialCommandIsClearedAtExpiry := by
  unfold Obligations.PartialCommandIsClearedAtExpiry
  intro s ha hp hc hnone hlonger hrun
  have h : PartialCommand s := ⟨hp, hc, hnone, hlonger⟩
  refine ⟨fun n hn => ⟨_, runTrace_eq ha _, ?_⟩, _, runTrace_eq ha _, ?_⟩
  · obtain ⟨hkept, hb, hto⟩ := h.run hn
    exact ⟨hb, hto, hkept.idle⟩
  · obtain ⟨k, hk⟩ : ∃ k, s.rxTimeout.toNat = k + 1 :=
      Nat.exists_eq_succ_of_ne_zero (mt (fun hz => BitVec.eq_of_toNat_eq hz) hrun)
    obtain ⟨hkept, -, hto⟩ := h.run (n := k) (by omega)
    rw [hk, afterTicks_replicate_succ, hkept.tick_of_last (by omega), clearFor_eq]
    exact ⟨(content_eq_nil_iff _).mpr rfl, rfl, List.suffix_append _ _⟩

end Sys2Proof.Machine
end

section
/-! PROOFS. The known query answered (spec/43_matcher.md R138, R139): while nothing waits in TXB the transmitter is
silent, the first frame leaves a partial command with the timeout armed, and the gate in the last tick of the second
frame finds the whole query. -/

namespace Sys2Proof.Machine

open Sys2Proof

@[simp] theorem afterTicks_table (xs : List Level) (s : State) : (afterTicks xs s).table = s.table := by
  induction xs generalizing s with
  | nil => rfl
  | cons x rest ih =>
    obtain ⟨-, -, -, -, -, htab, -⟩ := tickSubSteps_frame x s
    rw [afterTicks_cons, ih, htab]

/-! A transmitter with nothing to send. -/

/-- The transmitter is idle and TXB is empty (R113). -/
structure TxSilent (s : State) : Prop where
  idle : s.txPhase = .idle
  empty : s.txb.rd = s.txb.wr

/-- A silent transmitter stays silent in its turn, and reports nothing (R110, R113). -/
theorem TxSilent.transmitted {s : State} (h : TxSilent s) (x : Level) :
    TxSilent (transmitted x s) ∧ (transmitted x s).events = (received x s).events := by
  by_cases hw : s.txWait.toNat ≤ 1
  · rw [transmitted_of_acts hw, h.idle, txAct, txIdle_of_drained (by rw [txOpened_txb]; exact h.empty)]
    exact ⟨⟨(txOpened_txPhase x s).trans h.idle, rfl⟩, rfl⟩
  · rw [transmitted_of_waits (by omega)]
    exact ⟨⟨(txOpened_txPhase x s).trans h.idle, by rw [txOpened_txb]; exact h.empty⟩, rfl⟩

/-- Behind the transmitter's turn nothing happens in a tick that leaves the receiver in a frame (R130). -/
theorem tick_of_busy {x : Level} {s : State} (h : (tickSubSteps x s).rxPhase ≠ .idle) :
    tickSubSteps x s = transmitted x s := by
  obtain ⟨hp, -⟩ := transmitted_receiver_eq x s
  rw [tick_rxPhase, ← hp] at h
  rw [tick_eq_cmGate, cmGate_of_closed (.inl h)]

/-! The timeout in a frame. -/

@[simp] theorem opened_rxTimeout (x : Level) (s : State) : (opened x s).rxTimeout = countDown s.rxTimeout := rfl

/-- Only RX.START writes the timeout (R94). -/
theorem rxAct_rxTimeout {p : Phase} (hp : p ≠ .start) (s : State) : (rxAct p s).rxTimeout = s.rxTimeout := by
  cases p with
  | idle => rw [rxAct, rxIdle_eq]
  | start => exact absurd rfl hp
  | data => simp only [rxAct, rxData, rxTakeBit_eq]; split <;> rfl
  | parity => rw [rxAct, rxParity_eq]
  | stop => rw [rxAct, rxStop_eq]

theorem received_rxTimeout {s : State} (hp : s.rxPhase ≠ .start) (x : Level) :
    (received x s).rxTimeout = countDown s.rxTimeout := by
  by_cases hw : s.rxWait.toNat ≤ 1
  · rw [received_of_acts hw, rxAct_rxTimeout hp, opened_rxTimeout]
  · rw [received_of_waits (by omega)]; rfl

/-- In a tick that leaves the receiver in a frame and does not run RX.START the timeout counts down (R136). -/
theorem tick_rxTimeout_of_busy {x : Level} {s : State} (hp : s.rxPhase ≠ .start)
    (hbusy : (tickSubSteps x s).rxPhase ≠ .idle) : (tickSubSteps x s).rxTimeout = countDown s.rxTimeout := by
  obtain ⟨-, hto, -⟩ := transmitted_receiver_eq x s
  rw [tick_of_busy hbusy, hto, received_rxTimeout hp]

/-- The commit of a start bit arms a timeout that does not run (R94, R135). -/
theorem tick_commit_rxTimeout {s : State} (hp : s.rxPhase = .start) (hw : s.rxWait.toNat ≤ 1)
    (hstopped : s.rxTimeout = 0) : (tickSubSteps low s).rxTimeout = 480 := by
  have hbusy : (tickSubSteps low s).rxPhase ≠ .idle := by
    rw [(tick_commit hp hw).1.phase]
    exact framePhase_ne_idle (by decide)
  obtain ⟨-, hto, -⟩ := transmitted_receiver_eq low s
  have hopen : (opened low s).rxTimeout = 0 := by
    rw [opened_rxTimeout, hstopped]
    exact countDown_zero
  rw [tick_of_busy hbusy, hto, received_of_acts hw, hp, rxAct, rxStart, sample_eq_rxIn, opened_rxIn, if_pos rfl,
    rxStartCommit_eq]
  exact if_pos hopen

/-! A frame that a silent transmitter leaves alone. -/

/-- From the edge to the tick before RX.STOP the receiver is in the frame (R98). -/
theorem frame_busy {s : State} (hinv : Inv s) (hp : s.rxPhase = .idle) (hl : s.rxLast = high) (b : Byte)
    (p stop : Level) {k : Nat} (hk : k ≤ 40) :
    (afterTicks ((stimFrame b p stop 4).take (k + 1)) s).rxPhase ≠ .idle := by
  cases k with
  | zero =>
    have hw : s.rxWait.toNat ≤ 1 := by rw [hinv.rxIdleNoWait hp]; decide
    have htake : (stimFrame b p stop 4).take 1 = [low] := rfl
    rw [htake, afterTicks_cons, afterTicks_nil, (tick_edge hp hw hl).1]
    decide
  | succ n =>
    rw [(frame_rxOnTime hinv hp hl b p stop (n := n) (by omega)).phase]
    exact framePhase_ne_idle (by omega)

theorem frame_txSilent {s : State} (hinv : Inv s) (hp : s.rxPhase = .idle) (hl : s.rxLast = high)
    (hsilent : TxSilent s) (b : Byte) (p stop : Level) {k : Nat} (hk : k ≤ 41) :
    TxSilent (afterTicks ((stimFrame b p stop 4).take k) s) := by
  induction k with
  | zero => exact hsilent
  | succ k ih =>
    have hlen : (stimFrame b p stop 4).length = 44 := rfl
    have hget : (stimFrame b p stop 4)[k]? = some _ := List.getElem?_eq_getElem (by omega)
    have hbusy := frame_busy hinv hp hl b p stop (k := k) (by omega)
    rw [afterTicks_take_succ hget] at hbusy ⊢
    rw [tick_of_busy hbusy]
    exact ((ih (by omega)).transmitted _).1

/-- The timeout armed by a frame runs through it (R135, R136). -/
theorem frame_rxTimeout {s : State} (hinv : Inv s) (hp : s.rxPhase = .idle) (hl : s.rxLast = high)
    (hstopped : s.rxTimeout = 0) (b : Byte) (p stop : Level) {n : Nat} (hn : n ≤ 39) :
    (afterTicks ((stimFrame b p stop 4).take (n + 2)) s).rxTimeout.toNat = 480 - n := by
  induction n with
  | zero =>
    have hw : s.rxWait.toNat ≤ 1 := by rw [hinv.rxIdleNoWait hp]; decide
    have htake : (stimFrame b p stop 4).take 2 = [low, low] := rfl
    obtain ⟨hstart, hone, -⟩ := tick_edge hp hw hl
    have hedge : (tickSubSteps low s).rxTimeout = 0 := by
      rw [tick_rxTimeout_of_busy (by simp [hp]) (by rw [hstart]; decide), hstopped]
      exact countDown_zero
    rw [htake, afterTicks_cons, afterTicks_cons, afterTicks_nil,
      tick_commit_rxTimeout hstart (by rw [hone]; decide) hedge]
    rfl
  | succ n ih =>
    have hlen : (stimFrame b p stop 4).length = 44 := rfl
    have hget : (stimFrame b p stop 4)[n + 2]? = some _ := List.getElem?_eq_getElem (by omega)
    have hphase := (frame_rxOnTime hinv hp hl b p stop (n := n) (by omega)).phase
    have hbusy := frame_busy hinv hp hl b p stop (k := n + 2) (by omega)
    rw [afterTicks_take_succ hget] at hbusy
    rw [Nat.add_right_comm, afterTicks_take_succ hget,
      tick_rxTimeout_of_busy (by rw [hphase]; exact framePhase_ne_start n) hbusy, countDown_toNat, ih (by omega)]
    omega

/-- The state in which the gate runs in the tick of a frame's RX.STOP, the stop bit high: sub-steps 1 to 6 done. -/
def frameAtGate (b : Byte) (p : Level) (s : State) : State :=
  transmitted high (afterTicks ((stimFrame b p high 4).take 41) s)

theorem afterTicks_frame_42 (b : Byte) (p : Level) (s : State) :
    afterTicks ((stimFrame b p high 4).take 42) s = cmGate (frameAtGate b p s) := afterTicks_stimFrame_42 s b p high

/-- What the gate finds at the end of a frame that a silent transmitter leaves alone (R97, R98). -/
theorem frameAtGate_eq {s : State} (hinv : Inv s) (hp : s.rxPhase = .idle) (hl : s.rxLast = high)
    (hsilent : TxSilent s) (b : Byte) (p : Level) :
    (frameAtGate b p s).rxPhase = .idle ∧ (frameAtGate b p s).rxb.content = s.rxb.content ++ [b] ∧
      (frameAtGate b p s).table = s.table ∧ (frameAtGate b p s).events = [] ∧ TxSilent (frameAtGate b p s) := by
  have htime := frame_rxOnTime hinv hp hl b p high (n := 39) le_rfl
  obtain ⟨hcontent, -⟩ := frame_behind_data hinv hp hl b p high (n := 39) (by decide) le_rfl
  obtain ⟨hsilent', hevents⟩ := (frame_txSilent hinv hp hl hsilent b p high le_rfl).transmitted high
  obtain ⟨hphase, -, hrxb, htab⟩ :=
    transmitted_receiver_eq high (afterTicks ((stimFrame b p high 4).take 41) s)
  rw [htime.stop_events, if_pos rfl] at hevents
  rw [htime.received_stop, rxStop_eq] at hphase hrxb
  dsimp only at hrxb
  rw [afterTicks_table] at htab
  exact ⟨hphase, by rw [frameAtGate, hrxb, opened_rxb, hcontent], htab, hevents, hsilent'⟩

theorem frameAtGate_rxTimeout {s : State} (hinv : Inv s) (hp : s.rxPhase = .idle) (hl : s.rxLast = high)
    (hstopped : s.rxTimeout = 0) (b : Byte) (p : Level) : (frameAtGate b p s).rxTimeout.toNat = 440 := by
  have hphase := (frame_rxOnTime hinv hp hl b p high (n := 39) le_rfl).phase
  obtain ⟨-, hto, -⟩ := transmitted_receiver_eq high (afterTicks ((stimFrame b p high 4).take 41) s)
  rw [frameAtGate, hto, received_rxTimeout (by rw [hphase]; exact framePhase_ne_start 39), countDown_toNat,
    frame_rxTimeout hinv hp hl hstopped b p high (n := 39) le_rfl]

theorem frameAtGate_txbMemory {s : State} (hinv : Inv s) (b : Byte) (p : Level) :
    (frameAtGate b p s).txb.mem.wf = true := by
  obtain ⟨-, -, -, -, -, htxb⟩ := latched_eq high (afterTicks ((stimFrame b p high 4).take 41) s)
  rw [frameAtGate, transmitted, txDispatch_txb_mem, htxb]
  exact (afterTicks_inv hinv _).txbMemory

/-! The two frames of the known query. -/

/-- The first byte of the known query is a partial command. -/
theorem partialCommand_of_first_byte {s : State} (hp : s.rxPhase = .idle) (hc : s.rxb.content = [0x51])
    (htab : s.table = [knownEntry]) : PartialCommand s where
  idle := hp
  nonempty := by rw [hc]; exact List.cons_ne_nil _ _
  unmatched := by unfold noEntryMatches; rw [hc, htab]; decide
  longer := by unfold someEntryLonger; rw [hc, htab]; decide

theorem firstMatch_of_known_query : FirstMatch [knownEntry] [0x51, 0x0D] 0 knownEntry where
  entry := rfl
  isMatch := by decide
  first _ _ hj := absurd hj (Nat.not_lt_zero _)

/-- A silent transmitter stays silent while the gate keeps a partial command. -/
theorem TxSilent.run_of_partial {s : State} (hsilent : TxSilent s) (h : PartialCommand s) {n : Nat}
    (hn : n < s.rxTimeout.toNat) : TxSilent (afterTicks (List.replicate n high) s) := by
  induction n with
  | zero => exact hsilent
  | succ n ih =>
    obtain ⟨hkept, -, hto⟩ := h.run (n := n) (by omega)
    rw [afterTicks_replicate_succ, hkept.tick_of_running (by omega)]
    exact ((ih (by omega)).transmitted high).1

/-- The frame of the first byte of the known query leaves it in RXB, and the transmitter silent (R137). -/
theorem first_frame_of_known_query {s : State} (hinv : Inv s) (hp : s.rxPhase = .idle) (hl : s.rxLast = high)
    (hempty : s.rxb.content = []) (hstopped : s.rxTimeout = 0) (hsilent : TxSilent s) (htab : s.table = [knownEntry])
    {u : State} (hu : u = afterTicks (stimFrame 0x51 high high 4) s) :
    u.rxPhase = .idle ∧ u.rxLast = high ∧ u.rxb.content = [0x51] ∧ TxSilent u := by
  obtain ⟨hphase, hcontent, htable, -, hsil⟩ := frameAtGate_eq hinv hp hl hsilent 0x51 high
  have hto := frameAtGate_rxTimeout hinv hp hl hstopped 0x51 high
  rw [hempty, List.nil_append] at hcontent
  have hpartial := partialCommand_of_first_byte hphase hcontent (htable.trans htab)
  have hkept : cmGate (frameAtGate 0x51 high s) = frameAtGate 0x51 high s :=
    cmGate_of_partial hphase hpartial.nonempty hpartial.unmatched hpartial.longer fun hzero => by
      rw [hzero] at hto
      exact absurd hto (by decide)
  have hsplit : stimFrame 0x51 high high 4 = (stimFrame 0x51 high high 4).take 42 ++ List.replicate 2 high := rfl
  rw [hsplit, afterTicks_append, afterTicks_frame_42, hkept] at hu
  obtain ⟨hrun, hrxb, -⟩ := hpartial.run (n := 2) (by omega)
  rw [← hu] at hrun hrxb
  refine ⟨hrun.idle, ?_, by rw [hrxb, hcontent], ?_⟩
  · rw [hu, afterTicks_replicate_succ, tickSubSteps_rxLast]
  · rw [hu]; exact hsil.run_of_partial hpartial (by omega)

/-- A quiescent state is idle and silent, with RXB empty and the timeout stopped (R154). -/
theorem quiescent_parts {s : State} (h : quiescent s = true) :
    s.rxPhase = .idle ∧ TxSilent s ∧ s.rxb.content = [] ∧ s.rxTimeout = 0 := by
  simp only [quiescent, Bool.and_eq_true, decide_eq_true_eq] at h
  obtain ⟨⟨⟨⟨⟨⟨hrp, htp⟩, -⟩, -⟩, hrxb⟩, htxb⟩, hto⟩ := h
  exact ⟨hrp, ⟨htp, htxb⟩, (content_eq_nil_iff _).mpr hrxb, hto⟩

/-- Settles O50: behind the first frame the second one's last tick finds the whole query, and TXB empty. -/
theorem knownQueryIsAnswered : Obligations.KnownQueryIsAnswered := by
  unfold Obligations.KnownQueryIsAnswered
  intro s hinv ha hq hl htab
  obtain ⟨hp, hsilent, hempty, hstopped⟩ := quiescent_parts hq
  have hsplit : (stimFrame 0x51 high high 4 ++ stimFrame 0x0D high high 4).take 86 =
      stimFrame 0x51 high high 4 ++ (stimFrame 0x0D high high 4).take 42 := rfl
  refine ⟨_, runTrace_eq ha _, ?_⟩
  rw [hsplit, afterTicks_append]
  have hinvU := afterTicks_inv hinv (stimFrame 0x51 high high 4)
  have htabU := (afterTicks_table (stimFrame 0x51 high high 4) s).trans htab
  generalize hu : afterTicks (stimFrame 0x51 high high 4) s = u at hinvU htabU ⊢
  obtain ⟨hpU, hlU, hcU, hsilentU⟩ :=
    first_frame_of_known_query hinv hp hl hempty hstopped hsilent htab hu.symm
  obtain ⟨hphase, hcontent, htable, hevents, hsil⟩ := frameAtGate_eq hinvU hpU hlU hsilentU 0x0D high
  have hmem := frameAtGate_txbMemory hinvU 0x0D high
  have htxb := (content_eq_nil_iff _).mpr hsil.empty
  rw [hcU] at hcontent
  rw [htabU] at htable
  have hmatch : FirstMatch (frameAtGate 0x0D high u).table (frameAtGate 0x0D high u).rxb.content 0 knownEntry := by
    rw [htable, hcontent]; exact firstMatch_of_known_query
  obtain ⟨t, ht, hrxb, -, -, hto, -, hfit, -⟩ := matcherAnswersTheFirstMatch _ 0 knownEntry hphase
    (by rw [hcontent]; exact List.cons_ne_nil _ _) hmem hmatch.entry hmatch.isMatch hmatch.first
  obtain rfl : cmGate (frameAtGate 0x0D high u) = t := by injection ht
  obtain ⟨hreply, hreported⟩ := hfit (by rw [htxb]; decide)
  rw [afterTicks_frame_42]
  rw [htxb] at hreply
  rw [hevents] at hreported
  exact ⟨hreply, hrxb, hto, hreported⟩

end Sys2Proof.Machine
end

section
/-! PROOFS. The step and the sub-steps of TICK (spec/44_protocol_loop.md R150, R151, R153, R155, R156), with the
dispatched operations read from their words (spec/30_encoding.md R68). -/

namespace Sys2Proof.Machine

open Sys2Proof

/-- Settles O6: the four heads of the queue. -/
theorem stepRunsTheFetchedOperation : Obligations.StepRunsTheFetchedOperation := by
  unfold Obligations.StepRunsTheFetchedOperation
  intro s
  refine ⟨fun hq => ?_, fun x rest hq => ?_, fun b p rest hq => ?_, fun rest hq => ?_⟩
  all_goals rw [step, fetch, hq]

/-- Settles O8: such a tick is `beginTick` alone, and the line has no level. -/
theorem inactiveCoreTakesNoStep : Obligations.InactiveCoreTakesNoStep := by
  unfold Obligations.InactiveCoreTakesNoStep
  intro s x ha
  exact ⟨execTick_inactive ha x, if_neg (by simp [ha])⟩

/-- Settles O12: a TICK has a next state, and a frame and a RESET have one by definition. -/
theorem stepAlwaysHasANextState : Obligations.StepAlwaysHasANextState := by
  unfold Obligations.StepAlwaysHasANextState
  intro s
  rcases step_cases s with ⟨-, hs⟩ | ⟨x, rest, -, hs⟩ | ⟨b, p, rest, -, hs⟩ | ⟨rest, -, hs⟩ <;> rw [hs]
  · exact execTick_next _ _
  · exact execTick_next _ _
  · exact ⟨_, rfl⟩
  · exact ⟨_, rfl⟩

/-! The dispatched operations. -/

/-- The operation that the receiver's dispatch word decodes to is the one its phase and wait select (R68, R90). -/
theorem rxDispatchWord_decodes (s : State) :
    ∃ i, decode .receiver [(rxDispatchWord s).setWidth 8] = .ok i ∧ exec i s = .next (rxSelected s) := by
  refine ⟨_, decode_receiver_dispatchByte (decide (s.rxWait = 0)) s.rxPhase, ?_⟩
  by_cases hw : s.rxWait = 0
  · rw [decide_eq_true hw]
    exact exec_rxAction hw
  · rw [decide_eq_false hw, rxSelected, if_neg hw]
    exact exec_rxWait s

/-- The operation that the transmitter's dispatch word decodes to is the one its phase and wait select (R68, R110). -/
theorem txDispatchWord_decodes (s : State) :
    ∃ j, decode .transmitter [(txDispatchWord s).setWidth 8] = .ok j ∧ exec j s = .next (txSelected s) := by
  refine ⟨_, decode_transmitter_dispatchByte (decide (s.txWait = 0)) s.txPhase, ?_⟩
  by_cases hw : s.txWait = 0
  · rw [decide_eq_true hw, txSelected, if_pos hw]
    cases s.txPhase <;> rfl
  · rw [decide_eq_false hw, txSelected, if_neg hw]
    exact exec_txWait s

/-- Settles O7: the sub-steps are the states TICK passes through. -/
theorem tickIsItsSubStepsInOrder : Obligations.TickIsItsSubStepsInOrder := by
  unfold Obligations.TickIsItsSubStepsInOrder
  intro s x ha
  obtain ⟨i, hi, hexecI⟩ := rxDispatchWord_decodes (rxCountDown (toTick (txDrive (beginTick x s))))
  obtain ⟨j, hj, hexecJ⟩ := txDispatchWord_decodes (txCountDown (latched x s))
  exact ⟨_, _, _, _, _, _, i, j, exec_txDrive _, exec_toTick _, hi, hexecI, exec_rxLatch x _, hj, hexecJ,
    exec_cmGate _, execTick_active ha x⟩

end Sys2Proof.Machine
end

section
/-! PROOFS. The receiver, the transmitter and the matcher each read and write their own part of the state only
(spec/44_protocol_loop.md R151): put into any other state, the part goes the same way. So the two dispatches can be
taken in either order, and what the environment has queued bears on no tick (R154). -/

namespace Sys2Proof.Machine

open Sys2Proof

/-! The receiver's part. -/

/-- The receive state, RXB and the line of `s` put into `t`, with the events of `s` behind `evs`. -/
def State.withReceiverOf (t s : State) (evs : List Event) : State :=
  { t with
    rxLast := s.rxLast
    rxPhase := s.rxPhase
    rxWait := s.rxWait
    rxBit := s.rxBit
    rxParity := s.rxParity
    rxTimeout := s.rxTimeout
    rxb := s.rxb
    rxIn := s.rxIn
    events := evs ++ s.events }

/-- An operation on the receiver's part alone. -/
def OnReceiver (f : State → State) : Prop :=
  ∀ t s evs, f (State.withReceiverOf t s evs) = t.withReceiverOf (f s) evs

theorem emit_onReceiver (e : Event) : OnReceiver (State.emit e) := by
  intro t s evs
  simp [State.emit, State.withReceiverOf]

theorem rxIdle_onReceiver : OnReceiver rxIdle := by
  intro t s evs
  rw [rxIdle_eq, rxIdle_eq]
  rfl

theorem rxStart_onReceiver : OnReceiver rxStart := by
  intro t s evs
  have hsample : (t.withReceiverOf s evs).sample = s.sample := rfl
  rw [rxStart, rxStart, hsample]
  split
  · rw [rxStartCommit_eq, rxStartCommit_eq]; rfl
  · exact emit_onReceiver .glitch t { s with rxPhase := .idle, rxWait := 0 } evs

theorem rxFinishByte_onReceiver : OnReceiver rxFinishByte := by
  intro t s evs
  by_cases h : (rbCommit s.rxb).2 <;> simp [rxFinishByte, State.emit, State.withReceiverOf, h]

theorem rxData_onReceiver : OnReceiver rxData := by
  intro t s evs
  have htaken : { rxTakeBit (t.withReceiverOf s evs) with rxBit := cursorNext s.rxBit } =
      t.withReceiverOf { rxTakeBit s with rxBit := cursorNext s.rxBit } evs := by
    rw [rxTakeBit_eq, rxTakeBit_eq]; rfl
  have hbit (u : State) : (rxTakeBit u).rxBit = u.rxBit := by rw [rxTakeBit_eq]
  have hbit' : (t.withReceiverOf s evs).rxBit = s.rxBit := rfl
  simp only [rxData, hbit, hbit', htaken]
  split
  · rw [rxFinishByte_onReceiver]; rfl
  · rfl

theorem rxParity_onReceiver : OnReceiver rxParity := by
  intro t s evs
  by_cases h : s.rxIn = s.rxParity <;> simp [rxParity_eq, State.withReceiverOf, h]

theorem rxStop_onReceiver : OnReceiver rxStop := by
  intro t s evs
  by_cases h : s.rxIn = high <;> simp [rxStop_eq, State.withReceiverOf, h]

theorem rxDispatch_onReceiver : OnReceiver rxDispatch := by
  intro t s evs
  have hd : rxCountDown (t.withReceiverOf s evs) = t.withReceiverOf (rxCountDown s) evs := rfl
  have hw : (t.withReceiverOf (rxCountDown s) evs).rxWait = (rxCountDown s).rxWait := rfl
  have hp : (t.withReceiverOf (rxCountDown s) evs).rxPhase = (rxCountDown s).rxPhase := rfl
  rw [rxDispatch, rxDispatch, hd, rxSelected, rxSelected, hw, hp]
  split
  · cases (rxCountDown s).rxPhase with
    | idle => exact rxIdle_onReceiver _ _ _
    | start => exact rxStart_onReceiver _ _ _
    | data => exact rxData_onReceiver _ _ _
    | parity => exact rxParity_onReceiver _ _ _
    | stop => exact rxStop_onReceiver _ _ _
  · rfl

/-! The transmitter's part. -/

/-- The transmit state and TXB of `s` put into `t`, with the events of `s` behind `evs`. -/
def State.withTransmitterOf (t s : State) (evs : List Event) : State :=
  { t with
    txLevel := s.txLevel
    txPhase := s.txPhase
    txWait := s.txWait
    txBit := s.txBit
    txParity := s.txParity
    txb := s.txb
    events := evs ++ s.events }

/-- An operation on the transmitter's part alone. -/
def OnTransmitter (f : State → State) : Prop :=
  ∀ t s evs, f (State.withTransmitterOf t s evs) = t.withTransmitterOf (f s) evs

theorem txIdle_onTransmitter : OnTransmitter txIdle := by
  intro t s evs
  by_cases h : s.txb.rd = s.txb.wr <;> simp [txIdle, State.withTransmitterOf, h]

theorem txData_onTransmitter : OnTransmitter txData := by
  intro t s evs
  by_cases h : cursorNext s.txBit = cursorDone <;>
    simp [txData, txFinishByte, State.emit, State.withTransmitterOf, h]

theorem txDispatch_onTransmitter : OnTransmitter txDispatch := by
  intro t s evs
  have hd : txCountDown (t.withTransmitterOf s evs) = t.withTransmitterOf (txCountDown s) evs := rfl
  have hw : (t.withTransmitterOf (txCountDown s) evs).txWait = (txCountDown s).txWait := rfl
  have hp : (t.withTransmitterOf (txCountDown s) evs).txPhase = (txCountDown s).txPhase := rfl
  rw [txDispatch, txDispatch, hd, txSelected, txSelected, hw, hp]
  split
  · cases (txCountDown s).txPhase with
    | idle => exact txIdle_onTransmitter _ _ _
    | start => rfl
    | data => exact txData_onTransmitter _ _ _
    | parity => rfl
    | stop => rfl
  · rfl

/-! The matcher's part. -/

/-- What the matcher reads and writes of `s` put into `t`, with the events of `s` behind `evs`. -/
def State.withMatcherOf (t s : State) (evs : List Event) : State :=
  { t with
    rxPhase := s.rxPhase
    rxTimeout := s.rxTimeout
    rxb := s.rxb
    txb := s.txb
    table := s.table
    events := evs ++ s.events }

/-- An operation on the matcher's part alone. -/
def OnMatcher (f : State → State) : Prop :=
  ∀ t s evs, f (State.withMatcherOf t s evs) = t.withMatcherOf (f s) evs

theorem emit_onMatcher (e : Event) : OnMatcher (State.emit e) := by
  intro t s evs
  simp [State.emit, State.withMatcherOf]

theorem cmReply_onMatcher (i : Nat) (q : ByteSeq) : OnMatcher (cmReply i q) := by
  intro t s evs
  by_cases h : (rbAppend s.txb q).2 <;> simp [cmReply, State.emit, State.withMatcherOf, h]

theorem scanFrom_withMatcherOf (es : List QueryTableEntry) (i : Nat) (c : Bool) (t s : State) (evs : List Event) :
    scanFrom i c (t.withMatcherOf s evs) es =
      { scanFrom i c s es with state := t.withMatcherOf (scanFrom i c s es).state evs } := by
  have hrxb : (t.withMatcherOf s evs).rxb = s.rxb := rfl
  induction es generalizing i c with
  | nil => rfl
  | cons e rest ih =>
    rw [scanFrom, scanFrom, hrxb]
    split
    · exact ih _ _
    · split
      · rw [emit_onMatcher, cmReply_onMatcher]
      · exact ih _ _

theorem cmClear_onMatcher (m c : Bool) : OnMatcher (cmClear m c) := by
  intro t s evs
  have hexp : timeoutExpired (t.withMatcherOf s evs) = timeoutExpired s := rfl
  rw [cmClear, cmClear, hexp]
  split
  · rfl
  · simp [clearFor_eq, State.withMatcherOf]

theorem cmGate_onMatcher : OnMatcher cmGate := by
  intro t s evs
  have hp : (t.withMatcherOf s evs).rxPhase = s.rxPhase := rfl
  have hrxb : (t.withMatcherOf s evs).rxb = s.rxb := rfl
  have htab : (t.withMatcherOf s evs).table = s.table := rfl
  rw [cmGate, cmGate, hp, hrxb]
  split
  · rw [cmScan, cmScan, htab, scanFrom_withMatcherOf]
    exact cmClear_onMatcher _ _ _ _ _
  · rfl

/-! Either order. -/

/-- The state with no event yet. -/
def State.noEvents (s : State) : State := { s with events := [] }

theorem withReceiverOf_noEvents (s : State) : s.withReceiverOf s.noEvents s.events = s := by
  simp [State.withReceiverOf, State.noEvents]

theorem withTransmitterOf_noEvents (s : State) : s.withTransmitterOf s.noEvents s.events = s := by
  simp [State.withTransmitterOf, State.noEvents]

/-- The receiver's turn adds events of its own, whatever is there. -/
theorem rxDispatch_eq (s : State) : rxDispatch s = s.withReceiverOf (rxDispatch s.noEvents) s.events := by
  rw [← rxDispatch_onReceiver, withReceiverOf_noEvents]

/-- The transmitter's turn adds events of its own, whatever is there. -/
theorem txDispatch_eq (s : State) : txDispatch s = s.withTransmitterOf (txDispatch s.noEvents) s.events := by
  rw [← txDispatch_onTransmitter, withTransmitterOf_noEvents]

/-- What the transmitter does behind the receiver's turn is what it does before it (R151). -/
theorem txDispatch_rxDispatch (s : State) :
    txDispatch (rxDispatch s) =
      (rxDispatch s).withTransmitterOf (txDispatch s.noEvents) (rxDispatch s).events := by
  have hbefore : (rxDispatch s).withTransmitterOf s.noEvents (rxDispatch s).events = rxDispatch s := by
    rw [rxDispatch_eq s]
    simp [State.withTransmitterOf, State.withReceiverOf, State.noEvents]
  rw [← txDispatch_onTransmitter, hbefore]

/-- What the receiver does behind the transmitter's turn is what it does before it (R151). -/
theorem rxDispatch_txDispatch (s : State) :
    rxDispatch (txDispatch s) =
      (txDispatch s).withReceiverOf (rxDispatch s.noEvents) (txDispatch s).events := by
  have hbefore : (txDispatch s).withReceiverOf s.noEvents (txDispatch s).events = txDispatch s := by
    rw [txDispatch_eq s]
    simp [State.withTransmitterOf, State.withReceiverOf, State.noEvents]
  rw [← rxDispatch_onReceiver, hbefore]

/-- Settles O11: each dispatch puts its own part and its own events into the state, and the parts are disjoint. -/
theorem receiverAndTransmitterCommute : Obligations.ReceiverAndTransmitterCommute := by
  unfold Obligations.ReceiverAndTransmitterCommute
  intro s
  rw [txDispatch_rxDispatch, rxDispatch_txDispatch, rxDispatch_eq s, txDispatch_eq s]
  refine ⟨rfl, ?_⟩
  simp only [State.withTransmitterOf, State.withReceiverOf, List.append_assoc]
  exact List.perm_append_comm.append_left _

/-! The environment's queue. -/

/-- The state with another queue. -/
def State.withInputs (q : List Stimulus) (s : State) : State := { s with inputs := q }

/-- An operation that neither reads nor writes the queue. -/
def InputsBlind (f : State → State) : Prop := ∀ q s, f (State.withInputs q s) = (f s).withInputs q

/-- An operation on a part of the state that the queue is no part of: `put t s` is `s`'s part put into `t`. -/
theorem inputsBlind_of_part {f : State → State} (put : State → State → State)
    (hf : ∀ t s, f (put t s) = put t (f s)) (hself : ∀ s, put s s = s)
    (hqueue : ∀ q t s, put (t.withInputs q) s = (put t s).withInputs q) :
    InputsBlind f := by
  intro q s
  calc f (s.withInputs q) = f (put (s.withInputs q) s) := by rw [hqueue, hself]
    _ = (put s (f s)).withInputs q := by rw [hf, hqueue]
    _ = (f s).withInputs q := by rw [← hf, hself]

theorem OnReceiver.inputsBlind {f : State → State} (h : OnReceiver f) : InputsBlind f :=
  inputsBlind_of_part (State.withReceiverOf · · []) (h · · []) (fun _ => rfl) fun _ _ _ => rfl

theorem OnTransmitter.inputsBlind {f : State → State} (h : OnTransmitter f) : InputsBlind f :=
  inputsBlind_of_part (State.withTransmitterOf · · []) (h · · []) (fun _ => rfl) fun _ _ _ => rfl

theorem OnMatcher.inputsBlind {f : State → State} (h : OnMatcher f) : InputsBlind f :=
  inputsBlind_of_part (State.withMatcherOf · · []) (h · · []) (fun _ => rfl) fun _ _ _ => rfl

theorem tickSubSteps_inputsBlind (x : Level) : InputsBlind (tickSubSteps x) := by
  intro q s
  have hbegin :
      toTick (txDrive (beginTick x (s.withInputs q))) = (toTick (txDrive (beginTick x s))).withInputs q := rfl
  have hlatch (t : State) : rxLatch x (t.withInputs q) = (rxLatch x t).withInputs q := rfl
  rw [tickSubSteps_eq, tickSubSteps_eq, received, received, hbegin, rxDispatch_onReceiver.inputsBlind, hlatch,
    txDispatch_onTransmitter.inputsBlind, cmGate_onMatcher.inputsBlind]

/-- TICK with another queue is TICK, and the queue stays (R150). -/
theorem execTick_withInputs (x : Level) (q : List Stimulus) {s t : State} (h : execTick x s = .next t) :
    execTick x (s.withInputs q) = .next (t.withInputs q) := by
  rcases execTick_cases h with ⟨ha, rfl⟩ | ⟨ha, rfl⟩
  · rw [execTick_active (s := s.withInputs q) ha, tickSubSteps_inputsBlind]
  · exact execTick_inactive (s := s.withInputs q) ha x

/-- A step with a level at the head of the queue is the TICK with it, and leaves the rest of the queue. -/
theorem step_of_level {x : Level} {s t : State} (h : execTick x s = .next t) (q : List Stimulus) :
    step (s.withInputs (.level x :: q)) = .next (t.withInputs q) := by
  rw [← execTick_withInputs x q h]
  rfl

/-- A host's run goes on from the state its first step answers. -/
theorem run_succ_of_step (M : Host.Core) {s t : M.State} (h : M.step s = .next t) (n : Nat) :
    M.run (n + 1) s = M.run n t := by
  rw [Host.Core.run, h]

/-- The run over a queue of levels is the run over the trace, with what stands behind the levels in the queue. -/
theorem run_levelStimuli (xs : List Level) (q : List Stimulus) (s : State) :
    Host.Core.run core xs.length (s.withInputs (levelStimuli xs ++ q)) = runTrace xs (s.withInputs q) := by
  induction xs generalizing s with
  | nil => rfl
  | cons x xs ih =>
    obtain ⟨t, ht⟩ := execTick_next x s
    have hstep :
        core.step (s.withInputs (levelStimuli (x :: xs) ++ q)) = .next (t.withInputs (levelStimuli xs ++ q)) :=
      step_of_level ht _
    rw [runTrace, exec_tick, execTick_withInputs x q ht]
    exact (run_succ_of_step core hstep xs.length).trans (ih t)

/-- Settles O14: each step takes the next level of the queue, which bears on no TICK. -/
theorem runOverTheQueueIsTheRunOverTheTrace : Obligations.RunOverTheQueueIsTheRunOverTheTrace := by
  unfold Obligations.RunOverTheQueueIsTheRunOverTheTrace
  exact run_levelStimuli

end Sys2Proof.Machine
end

section
/-! PROOFS. Quiescence (spec/44_protocol_loop.md R154, R155). With the line held high a frame in progress ends, the gate
of that tick leaves nothing in RXB that still earns a reply, and from then on TXB drains while the timeout runs out: each
part has a number of ticks left that goes down in every tick. -/

namespace Sys2Proof.Machine

open Sys2Proof

/-! A quiescent state. -/

theorem quiescent_iff (s : State) :
    quiescent s = true ↔ s.rxPhase = .idle ∧ s.txPhase = .idle ∧ s.rxWait = 0 ∧ s.txWait = 0 ∧
      s.rxb.rd = s.rxb.wr ∧ s.txb.rd = s.txb.wr ∧ s.rxTimeout = 0 := by
  simp only [quiescent, Bool.and_eq_true, decide_eq_true_eq, and_assoc]

/-- Clearing a buffer whose indices are back at 0 changes nothing (R86). -/
theorem rbClear_of_origin {b : RingBuf} (hrd : b.rd = 0) (hempty : b.rd = b.wr) : rbClear b = b := by
  obtain ⟨mem, wr, rd⟩ := b
  obtain rfl : rd = 0 := hrd
  obtain rfl : 0 = wr := hempty
  rfl

theorem txDrive_of_pin_eq {s : State} (h : s.txPin = s.txLevel) : txDrive s = s :=
  congrArg (fun l => { s with txPin := l }) h.symm

theorem toTick_of_stopped {s : State} (h : s.rxTimeout = 0) : toTick s = s := by
  have hstays : countDown s.rxTimeout = s.rxTimeout := by rw [h]; exact countDown_zero
  rw [toTick, hstays]

theorem rxLatch_of_eq {x : Level} {s : State} (h : s.rxLast = x) : rxLatch x s = s := by
  rw [rxLatch, ← h]

/-- In a quiescent state the pin is driven as it was, the timeout stays at 0, and a high line makes no edge (R93, R111,
R136). -/
theorem received_of_quiescent {s : State} (h : quiescent s = true) (hpin : s.txPin = s.txLevel) :
    received high s = beginTick high s := by
  obtain ⟨hrp, -, hrw, -, -, -, hto⟩ := (quiescent_iff s).mp h
  have hwait : (beginTick high s).rxWait = 0 := hrw
  have hopen : opened high s = beginTick high s := by
    rw [opened, txDrive_of_pin_eq (s := beginTick high s) hpin,
      toTick_of_stopped (s := beginTick high s) hto, ← hwait]
  rw [received_of_acts (by rw [hrw]; decide), hrp, rxAct, rxIdle, if_neg (by simp), hopen]

/-- TX.IDLE in a quiescent state clears a buffer that is clear (R113). -/
theorem transmitted_of_quiescent {s : State} (h : quiescent s = true) (hl : s.rxLast = high) (hrd : s.txb.rd = 0)
    (hpin : s.txPin = s.txLevel) : transmitted high s = beginTick high s := by
  obtain ⟨-, htp, -, htw, -, htxb, -⟩ := (quiescent_iff s).mp h
  have hwait : (beginTick high s).txWait = 0 := htw
  have hopen : txOpened high s = beginTick high s := by
    rw [txOpened, latched, received_of_quiescent h hpin, rxLatch_of_eq (s := beginTick high s) hl, ← hwait]
  rw [transmitted_of_acts (by rw [htw]; decide), htp, txAct, hopen, txIdle_of_drained (s := beginTick high s) htxb,
    beginTick_txb, rbClear_of_origin hrd htxb]
  rfl

/-- Settles O59: neither machine changes anything, and the gate is closed. -/
theorem quiescentStateStands : Obligations.QuiescentStateStands := by
  unfold Obligations.QuiescentStateStands
  intro s ha hq hl hrd hpin
  obtain ⟨-, -, -, -, hrxb, -, -⟩ := (quiescent_iff s).mp hq
  rw [exec_tick, execTick_active ha, tick_eq_cmGate, transmitted_of_quiescent hq hl hrd hpin,
    cmGate_of_closed (s := beginTick high s) (.inr hrxb)]
  rfl

/-! Ticks left in a frame. -/

/-- Ticks until a machine with this wait acts: a wait of 0 acts in the next tick, as a wait of 1 does (R90, R110). -/
def ticksToAct (w : BitVec 3) : Nat := max w.toNat 1

/-- The data bits from the cursor's to the eighth (R14). -/
def bitsLeft (c : BitVec 8) : Nat := 8 - c.toNat.log2

/-- Ticks until a machine is in IDLE, for its phase, wait and cursor: four ticks a period (R61). A receiver in START may
be there at once (R94). -/
def frameTicks (p : Phase) (w : BitVec 3) (c : BitVec 8) : Nat :=
  match p with
  | .idle => 0
  | .start => ticksToAct w + 40
  | .data => ticksToAct w + 4 * bitsLeft c + 4
  | .parity => ticksToAct w + 4
  | .stop => ticksToAct w

theorem ticksToAct_le {w : BitVec 3} (h : w.toNat ≤ 4) : ticksToAct w ≤ 4 := by
  unfold ticksToAct; omega

theorem ticksToAct_of_acts {w : BitVec 3} (h : w.toNat ≤ 1) : ticksToAct w = 1 := by
  unfold ticksToAct; omega

theorem ticksToAct_of_waits {w : BitVec 3} (h : 2 ≤ w.toNat) : ticksToAct (w - 1) + 1 = ticksToAct w := by
  have hpred : (w - 1).toNat = w.toNat - 1 := by bv_omega
  unfold ticksToAct; omega

theorem bitsLeft_le (c : BitVec 8) : bitsLeft c ≤ 8 := Nat.sub_le _ _

/-- Each data bit leaves one less, and behind the last the cursor is done (R14, R87 (b)). -/
theorem bitsLeft_cursorNext {c : BitVec 8} (h : cursorOneBit c = true) :
    bitsLeft c = if cursorNext c = cursorDone then 1 else bitsLeft (cursorNext c) + 1 := by
  simp only [cursorOneBit, Bool.or_eq_true, decide_eq_true_eq, or_assoc] at h
  rcases h with rfl | rfl | rfl | rfl | rfl | rfl | rfl | rfl <;> decide

theorem frameTicks_le {p : Phase} {w : BitVec 3} (h : w.toNat ≤ 4) (c : BitVec 8) : frameTicks p w c ≤ 44 := by
  have hw := ticksToAct_le h
  have hb := bitsLeft_le c
  cases p <;> simp only [frameTicks] <;> omega

theorem frameTicks_of_waits {p : Phase} {w : BitVec 3} (hp : p ≠ .idle) (h : 2 ≤ w.toNat) (c : BitVec 8) :
    frameTicks p (w - 1) c + 1 = frameTicks p w c := by
  have hw := ticksToAct_of_waits h
  cases p with
  | idle => exact absurd rfl hp
  | start | data | parity | stop => simp only [frameTicks]; omega

/-- A data bit taken or driven brings a machine one tick nearer to IDLE (R95, R115). -/
theorem frameTicks_of_data {w : BitVec 3} {c : BitVec 8} (hw : w.toNat ≤ 1) (hc : cursorOneBit c = true) :
    frameTicks (if cursorNext c = cursorDone then .parity else .data) 4 (cursorNext c) + 1 =
      frameTicks .data w c := by
  have hfour : ticksToAct 4 = 4 := rfl
  have hone := ticksToAct_of_acts hw
  have hbits := bitsLeft_cursorNext hc
  split at hbits
  · next hdone => simp only [if_pos hdone, frameTicks]; omega
  · next hmore => simp only [if_neg hmore, frameTicks]; omega

/-! The receiver. -/

/-- Ticks until the receiver is in IDLE. -/
def rxTicks (s : State) : Nat := frameTicks s.rxPhase s.rxWait s.rxBit

/-- On a high line each turn of the receiver brings it a tick nearer to IDLE (R90, R94 to R97). -/
theorem received_rxTicks {s : State} (h : Inv s) (hbusy : s.rxPhase ≠ .idle) :
    (received high s).rxPhase = .idle ∨ rxTicks (received high s) + 1 = rxTicks s := by
  unfold rxTicks
  by_cases hw : s.rxWait.toNat ≤ 1
  · rw [received_of_acts hw]
    cases hp : s.rxPhase with
    | idle => exact absurd hp hbusy
    | start =>
      rw [rxAct, rxStart, sample_eq_rxIn, opened_rxIn, if_neg (by decide)]
      exact .inl rfl
    | data =>
      have hcursor := h.rxCursor
      rw [hp] at hcursor
      obtain ⟨hphase, hwait, hbit⟩ := rxData_control (opened high s)
      rw [opened_rxBit, opened_rxPhase, hp] at hphase
      rw [rxAct, hphase, hwait, hbit, opened_rxBit]
      exact .inr (frameTicks_of_data hw hcursor)
    | parity =>
      have hone := ticksToAct_of_acts hw
      rw [rxAct, rxParity_eq]
      refine .inr ?_
      simp only [frameTicks, hone]
      rfl
    | stop =>
      rw [rxAct, rxStop_eq]
      exact .inl rfl
  · rw [received_of_waits (by omega)]
    exact .inr (frameTicks_of_waits hbusy (by omega) _)

/-! The gate. -/

/-- The receiver is idle, and RXB holds nothing, or a partial command whose timeout runs: without another byte there is
no reply to come (R137, R139). -/
structure Settled (s : State) : Prop where
  idle : s.rxPhase = .idle
  noReply : s.rxb.rd = s.rxb.wr ∨ PartialCommand s ∧ s.rxTimeout ≠ 0

theorem clearFor_settled {s : State} (hp : s.rxPhase = .idle) (r : ClearReason) : Settled (clearFor r s) := by
  rw [clearFor_eq]
  exact ⟨hp, .inl rfl⟩

/-- A scan that ends without a match has found none (R131). -/
theorem noEntryMatches_of_scanFrom {es : List QueryTableEntry} {i : Nat} {c : Bool} {s : State}
    (h : (scanFrom i c s es).matched = false) : ∀ e ∈ es, queryMatches s.rxb.content e = false := by
  induction es generalizing i c with
  | nil => simp
  | cons e es ih =>
    cases he : queryMatches s.rxb.content e with
    | true => rw [scanFrom_cons_of_match he] at h; cases h
    | false =>
      rw [scanFrom_cons_of_no_match he] at h
      exact List.forall_mem_cons.mpr ⟨he, ih h⟩

/-- Behind the gate an idle receiver is settled: RXB is cleared, but for a partial command that is not overdue (R139). -/
theorem cmGate_settled {s : State} (hp : s.rxPhase = .idle) : Settled (cmGate s) := by
  by_cases hempty : s.rxb.rd = s.rxb.wr
  · rw [cmGate_of_closed (.inr hempty)]
    exact ⟨hp, .inl hempty⟩
  · have hc : s.rxb.content ≠ [] := mt (content_eq_nil_iff _).mp hempty
    cases hm : (cmScan s).matched with
    | true =>
      obtain ⟨⟨-, hphase, -⟩, -⟩ := scanFrom_frame s.table 0 false s
      rw [cmGate_of_open hp hempty, hm, cmClear_of_match]
      exact clearFor_settled (hphase.trans hp) _
    | false =>
      have hnone : noEntryMatches s := noEntryMatches_of_scanFrom hm
      by_cases hlonger : someEntryLonger s
      · by_cases hexp : s.rxTimeout = 0
        · rw [cmGate_of_expired hp hc hnone hlonger hexp]
          exact clearFor_settled hp _
        · rw [cmGate_of_partial hp hc hnone hlonger hexp]
          exact ⟨hp, .inr ⟨⟨hp, hc, hnone, hlonger⟩, hexp⟩⟩
      · rw [someEntryLonger_iff, Bool.not_eq_true] at hlonger
        rw [cmGate_of_none hp hc hnone, hlonger, cmClear_of_noMatch]
        exact clearFor_settled hp _

/-- A high tick settles the receiver or brings it nearer to IDLE. -/
theorem tick_settled_or_rxTicks {s : State} (h : Inv s) :
    Settled (tickSubSteps high s) ∨ rxTicks (tickSubSteps high s) < rxTicks s := by
  obtain ⟨hphase, hwait, hbit, -⟩ := tick_receiver_eq high s
  obtain ⟨hgate, -⟩ := transmitted_receiver_eq high s
  by_cases hidle : (received high s).rxPhase = .idle
  · exact .inl (cmGate_settled (hgate.trans hidle))
  · have hbusy : s.rxPhase ≠ .idle := by
      intro hp
      obtain ⟨w, hr⟩ := received_high_of_idle hp
      exact hidle (by rw [hr]; exact hp)
    have hless := (received_rxTicks h hbusy).resolve_left hidle
    unfold rxTicks at hless ⊢
    rw [hphase, hwait, hbit]
    exact .inr (by omega)

/-- With the line high the receiver and the gate leave a settled state settled and TXB to the transmitter, and the
timeout counts down. -/
theorem Settled.tick {s : State} (h : Settled s) :
    Settled (tickSubSteps high s) ∧ (tickSubSteps high s).txb = (transmitted high s).txb ∧
      (tickSubSteps high s).rxTimeout.toNat ≤ s.rxTimeout.toNat - 1 := by
  obtain ⟨hphase, hto, hrxb, -⟩ := transmitted_receiver_eq high s
  obtain ⟨w, hr⟩ := received_high_of_idle h.idle
  rw [hr] at hphase hto hrxb
  refine ⟨cmGate_settled (hphase.trans h.idle), ?_⟩
  rcases h.noReply with hempty | ⟨hpart, -⟩
  · rw [tick_eq_cmGate, cmGate_of_closed (.inr (by rw [hrxb]; exact hempty)), hto]
    exact ⟨rfl, (countDown_toNat _).le⟩
  · obtain ⟨-, -, hleft⟩ := hpart.transmitted_high
    by_cases hrun : 2 ≤ s.rxTimeout.toNat
    · rw [hpart.tick_of_running hrun]
      exact ⟨rfl, hleft.le⟩
    · rw [hpart.tick_of_last (by omega), clearFor_eq]
      exact ⟨rfl, Nat.zero_le _⟩

/-! The transmitter. -/

/-- Ticks until the transmitter is in IDLE with its wait 0 and all `n` bytes of TXB sent: 45 for each byte to come, and
4 behind the frame in progress, whose byte is in TXB till its last data bit (R115, R117, R118). -/
def sendTicks (p : Phase) (w : BitVec 3) (c : BitVec 8) (n : Nat) : Nat :=
  match p with
  | .idle => if n = 0 then w.toNat else 45 * n + ticksToAct w
  | .start => 45 * (n - 1) + 4 + frameTicks .start w c
  | .data => 45 * (n - 1) + 4 + frameTicks .data w c
  | .parity => 45 * n + 4 + frameTicks .parity w c
  | .stop => 45 * n + 4 + frameTicks .stop w c

/-- The transmitter's ticks to the end of what is in TXB. -/
def txTicks (s : State) : Nat := sendTicks s.txPhase s.txWait s.txBit (rbCount s.txb).toNat

theorem sendTicks_le {p : Phase} {w : BitVec 3} {n : Nat} (hw : w.toNat ≤ 4) (hn : n ≤ 15) (c : BitVec 8) :
    sendTicks p w c n ≤ 723 := by
  have hact := ticksToAct_le hw
  have hframe (q : Phase) : frameTicks q w c ≤ 44 := frameTicks_le hw c
  cases p with
  | idle => simp only [sendTicks]; split <;> omega
  | start => have hf := hframe .start; simp only [sendTicks]; omega
  | data => have hf := hframe .data; simp only [sendTicks]; omega
  | parity => have hf := hframe .parity; simp only [sendTicks]; omega
  | stop => have hf := hframe .stop; simp only [sendTicks]; omega

theorem sendTicks_of_waits {w : BitVec 3} (h : 2 ≤ w.toNat) (p : Phase) (c : BitVec 8) (n : Nat) :
    sendTicks p (w - 1) c n ≤ sendTicks p w c n - 1 := by
  have hact := ticksToAct_of_waits h
  have hpred : (w - 1).toNat = w.toNat - 1 := by bv_omega
  cases p with
  | idle => simp only [sendTicks]; split <;> omega
  | start | data | parity | stop => simp only [sendTicks, frameTicks]; omega

theorem sendTicks_zero_le (p : Phase) (w : BitVec 3) (c : BitVec 8) (n : Nat) :
    sendTicks p 0 c n ≤ sendTicks p w c n := by
  have hzero : ticksToAct 0 = 1 := rfl
  have hact : 1 ≤ ticksToAct w := le_max_right _ _
  cases p with
  | idle =>
    simp only [sendTicks]
    split
    · exact Nat.zero_le _
    · omega
  | start | data | parity | stop => simp only [sendTicks, frameTicks]; omega

/-- Only a transmitter that is idle, with its wait 0 and nothing to send, has no tick left. -/
theorem eq_of_sendTicks_eq_zero {p : Phase} {w : BitVec 3} {c : BitVec 8} {n : Nat} (h : sendTicks p w c n = 0) :
    p = .idle ∧ w = 0 ∧ n = 0 := by
  cases p with
  | idle =>
    simp only [sendTicks] at h
    split at h
    · next hn => exact ⟨rfl, BitVec.eq_of_toNat_eq h, hn⟩
    · omega
  | start | data | parity | stop => simp only [sendTicks] at h; omega

theorem rbCount_pos {b : RingBuf} (h : b.rd ≠ b.wr) : 0 < (rbCount b).toNat := by
  unfold rbCount; bv_omega

theorem rbCount_rbAdv {b : RingBuf} (h : b.rd ≠ b.wr) : (rbCount (rbAdv b)).toNat = (rbCount b).toNat - 1 := by
  simp only [rbCount, rbAdv_rd, rbAdv_wr, slotNext]; bv_omega

/-- TX.IDLE starts the next byte, or has nothing to do (R113). -/
theorem txIdle_txTicks {s : State} (hp : s.txPhase = .idle) (hw : s.txWait = 0) :
    txTicks (txIdle s) ≤ txTicks s - 1 := by
  by_cases hempty : s.txb.rd = s.txb.wr
  · have hcount : rbCount (rbClear s.txb) = 0 := (rbCount_eq_zero _).mpr rfl
    rw [txIdle_of_drained hempty]
    simp [txTicks, sendTicks, hp, hw, hcount]
  · have hpos := rbCount_pos hempty
    have hact : ticksToAct 0 = 1 := rfl
    have hframe : frameTicks .start 1 s.txBit = 41 := rfl
    rw [txIdle_of_unread hempty]
    simp only [txTicks, sendTicks, hp, hw, hact, hframe, if_neg hpos.ne']
    omega

theorem txStart_txTicks {s : State} (hp : s.txPhase = .start) (hw : s.txWait = 0) :
    txTicks (txStart s) ≤ txTicks s - 1 := by
  have hframe : frameTicks .data Config.quantaPerBit cursorFirst = 40 := by decide
  have hframe' : frameTicks .start 0 s.txBit = 41 := rfl
  simp only [txTicks, txStart_txPhase, txStart_txWait, txStart_txBit, txStart_txb, hp, hw, sendTicks, hframe, hframe']
  omega

/-- The last data bit takes the byte from TXB, and leaves the frame with its parity and stop bit (R115). -/
theorem txData_txTicks {s : State} (hp : s.txPhase = .data) (hw : s.txWait = 0) (hc : cursorOneBit s.txBit = true)
    (hne : s.txb.rd ≠ s.txb.wr) : txTicks (txData s) ≤ txTicks s - 1 := by
  have hframe := frameTicks_of_data (w := s.txWait) (by rw [hw]; decide) hc
  obtain ⟨hphase, hwait, hbit, -⟩ := txData_control s
  rw [txTicks, txTicks, hphase, hwait, hbit, hp]
  by_cases hdone : cursorNext s.txBit = cursorDone
  · rw [if_pos hdone] at hframe ⊢
    rw [(txData_of_done hdone).1, rbCount_rbAdv hne]
    simp only [sendTicks]
    omega
  · rw [if_neg hdone] at hframe ⊢
    rw [txData_txb_of_more hdone]
    simp only [sendTicks]
    omega

theorem txParity_txTicks {s : State} (hp : s.txPhase = .parity) (hw : s.txWait = 0) :
    txTicks (txParity s) ≤ txTicks s - 1 := by
  simp [txTicks, sendTicks, frameTicks, ticksToAct, Config.quantaPerBit, hp, hw]

theorem txStop_txTicks {s : State} (hp : s.txPhase = .stop) (hw : s.txWait = 0) :
    txTicks (txStop s) ≤ txTicks s - 1 := by
  have hact : ticksToAct Config.quantaPerBit = 4 := rfl
  have hact' : ticksToAct 0 = 1 := rfl
  have hfour : Config.quantaPerBit.toNat = 4 := rfl
  simp only [txTicks, txStop_txPhase, txStop_txWait, txStop_txb, hp, hw, sendTicks, frameTicks, hact, hact', hfour]
  split <;> omega

/-- Each phase action leaves the transmitter one tick less (R113 to R117). -/
theorem txAct_txTicks {s : State} (h : TxInv s) (hw : s.txWait = 0) :
    txTicks (txAct s.txPhase s) ≤ txTicks s - 1 := by
  have hcursor := h.cursor
  have hbyte := (txHasByte_iff s).mp h.hasByte
  cases hp : s.txPhase with
  | idle => exact txIdle_txTicks hp hw
  | start => exact txStart_txTicks hp hw
  | data =>
    rw [hp] at hcursor
    exact txData_txTicks hp hw hcursor (hbyte (.inr hp))
  | parity => exact txParity_txTicks hp hw
  | stop => exact txStop_txTicks hp hw

/-- Each turn of the transmitter leaves it one tick less (R110). -/
theorem txDispatch_txTicks {s : State} (h : TxInv s) : txTicks (txDispatch s) ≤ txTicks s - 1 := by
  by_cases hw : s.txWait.toNat ≤ 1
  · have hready : txTicks { s with txWait := 0 } ≤ txTicks s := sendTicks_zero_le _ _ _ _
    have hact := txAct_txTicks (s := { s with txWait := 0 }) { h with waitBound := Nat.zero_le _ } rfl
    rw [txDispatch_of_acts hw]
    exact hact.trans (Nat.sub_le_sub_right hready 1)
  · rw [txDispatch_of_waits (by omega)]
    exact sendTicks_of_waits (by omega) _ _ _

theorem latched_txInv {s : State} (h : Inv s) (x : Level) : TxInv (latched x s) := by
  have hr : TxInv (received x s) :=
    TxInv.of_rxFrame (s := toTick (txDrive (beginTick x s))) { h.txInv with } (rxDispatch_frame _)
  exact { hr with }

theorem transmitted_txTicks {s : State} (h : Inv s) (x : Level) : txTicks (transmitted x s) ≤ txTicks s - 1 := by
  have hless := txDispatch_txTicks (latched_txInv h x)
  obtain ⟨hp, hw, hb, -, -, htxb⟩ := latched_eq x s
  rwa [txTicks.eq_1 (latched x s), hp, hw, hb, htxb] at hless

/-- A settled state's high tick leaves the transmitter one tick less. -/
theorem Settled.tick_txTicks {s : State} (h : Settled s) (hinv : Inv s) :
    txTicks (tickSubSteps high s) ≤ txTicks s - 1 := by
  obtain ⟨hp, hw, hb, -⟩ := tick_transmitter_eq high s
  obtain ⟨-, htxb, -⟩ := h.tick
  rw [txTicks, hp, hw, hb, htxb]
  exact transmitted_txTicks hinv high

/-! The run. -/

/-- A property with a number of ticks left that each tick with the level takes down holds with none left in the end. -/
theorem afterTicks_countdown {Q : Nat → State → Prop} {x : Level}
    (hstep : ∀ n s, Q (n + 1) s → Q n (tickSubSteps x s)) {n : Nat} {s : State} (h : Q n s) :
    Q 0 (afterTicks (List.replicate n x) s) := by
  induction n generalizing s with
  | zero => exact h
  | succ n ih =>
    rw [List.replicate_succ, afterTicks_cons]
    exact ih (hstep n s h)

/-- The state is settled, or is so after at most `n` high ticks. -/
structure SettlesWithin (n : Nat) (s : State) : Prop where
  inv : Inv s
  settles : Settled s ∨ rxTicks s < n

theorem SettlesWithin.tick {n : Nat} {s : State} (h : SettlesWithin (n + 1) s) :
    SettlesWithin n (tickSubSteps high s) := by
  refine ⟨tickSubSteps_inv h.inv high, ?_⟩
  rcases h.settles with hset | hlt
  · exact .inl hset.tick.1
  · exact (tick_settled_or_rxTicks h.inv).imp_right fun hless => by omega

/-- A settled state whose transmitter and timeout have at most `n` ticks left. -/
structure DrainsWithin (n : Nat) (s : State) : Prop where
  inv : Inv s
  settled : Settled s
  sends : txTicks s ≤ n
  expires : s.rxTimeout.toNat ≤ n

theorem DrainsWithin.tick {n : Nat} {s : State} (h : DrainsWithin (n + 1) s) :
    DrainsWithin n (tickSubSteps high s) := by
  obtain ⟨hset, -, hto⟩ := h.settled.tick
  have hsends := h.settled.tick_txTicks h.inv
  have hbefore := h.sends
  have hbefore' := h.expires
  exact ⟨tickSubSteps_inv h.inv high, hset, by omega, by omega⟩

/-- With no tick left nothing is sent, no timeout runs, and so RXB holds no partial command. -/
theorem DrainsWithin.quiescent {s : State} (h : DrainsWithin 0 s) : quiescent s = true := by
  obtain ⟨htp, htw, hcount⟩ := eq_of_sendTicks_eq_zero (Nat.le_zero.mp h.sends)
  have hto : s.rxTimeout = 0 := BitVec.eq_of_toNat_eq (Nat.le_zero.mp h.expires)
  have hrxb := h.settled.noReply.resolve_right fun hpart => hpart.2 hto
  have htxb := (rbCount_eq_zero s.txb).mp (BitVec.eq_of_toNat_eq hcount)
  exact (quiescent_iff s).mpr
    ⟨h.settled.idle, htp, h.inv.rxIdleNoWait h.settled.idle, htw, hrxb, htxb, hto⟩

theorem settlesWithin_of_inv {s : State} (h : Inv s) : SettlesWithin 45 s :=
  ⟨h, .inr (Nat.lt_succ_of_le (frameTicks_le h.rxWaitBound _))⟩

theorem SettlesWithin.drainsWithin {s : State} (h : SettlesWithin 0 s) : DrainsWithin 723 s where
  inv := h.inv
  settled := h.settles.resolve_right (Nat.not_lt_zero _)
  sends := sendTicks_le h.inv.txWaitBound (rbCount_le _) _
  expires := h.inv.timeoutBound.trans (by decide)

/-- Settles O60: after 45 ticks the receiver is settled, and after 723 more the transmitter and the timeout are done. -/
theorem lineHeldHighLeadsToQuiescence : Obligations.LineHeldHighLeadsToQuiescence := by
  unfold Obligations.LineHeldHighLeadsToQuiescence
  intro s hinv ha
  have hsettled := afterTicks_countdown (fun _ _ => SettlesWithin.tick) (settlesWithin_of_inv hinv)
  have hdrained := afterTicks_countdown (fun _ _ => DrainsWithin.tick) hsettled.drainsWithin
  rw [← afterTicks_append, List.replicate_append_replicate] at hdrained
  exact ⟨45 + 723, by decide, _, runTrace_eq ha _, hdrained.quiescent⟩

end Sys2Proof.Machine
end

section
/-! PROOFS. What a tick emits, and that what is observed of a core bears on no tick (spec/60_exceptions.md R170, R179):
each machine adds one of a few sequences to the events, and reads neither the events nor the returned value. -/

namespace Sys2Proof.Machine

open Sys2Proof

/-! The receiver's events. -/

/-- What the receiver can emit in a turn that ends in IDLE (R179). -/
def IdleReceiverEvents (r : List Event) : Prop := r = [] ∨ r = [.glitch] ∨ r = [.stop]

/-- RX.DATA emits nothing, or goes to PARITY with a byte, received or lost (R95). -/
theorem rxData_events (s : State) :
    (rxData s).events = s.events ∨
      (rxData s).rxPhase = .parity ∧
        ((∃ b, (rxData s).events = s.events ++ [.rxByte b]) ∨ (rxData s).events = s.events ++ [.rxOverflow]) := by
  simp only [rxData, rxTakeBit_eq]
  split
  · refine .inr ⟨rfl, ?_⟩
    simp only [rxFinishByte, emit_events]
    split
    · exact .inl ⟨_, rfl⟩
    · exact .inr rfl
  · exact .inl rfl

/-- What the receiver's turn can emit: a sequence that the gate may follow, or one behind which the gate is closed, for
the phase is not IDLE (R90 to R97, R130). -/
theorem received_events (x : Level) (s : State) :
    IdleReceiverEvents (received x s).events ∨
      (received x s).rxPhase ≠ .idle ∧
        ((received x s).events = [.parity] ∨ (∃ b, (received x s).events = [.rxByte b]) ∨
          (received x s).events = [.rxOverflow]) := by
  by_cases hw : s.rxWait.toNat ≤ 1
  · rw [received_of_acts hw]
    cases hp : s.rxPhase with
    | idle => rw [rxAct, rxIdle_eq]; exact .inl (.inl rfl)
    | start =>
      rw [rxAct, rxStart]
      split
      · rw [rxStartCommit_eq]; exact .inl (.inl rfl)
      · exact .inl (.inr (.inl rfl))
    | data =>
      rcases rxData_events (opened x s) with hnone | ⟨hparity, hbyte⟩
      · exact .inl (.inl hnone)
      · exact .inr ⟨by rw [rxAct, hparity]; decide, .inr hbyte⟩
    | parity =>
      rw [rxAct, rxParity_eq]
      dsimp only
      split
      · exact .inl (.inl rfl)
      · exact .inr ⟨by decide, .inl rfl⟩
    | stop =>
      rw [rxAct, rxStop_eq]
      dsimp only
      split
      · exact .inl (.inl rfl)
      · exact .inl (.inr (.inr rfl))
  · rw [received_of_waits (by omega)]
    exact .inl (.inl rfl)

/-! The transmitter's events. -/

/-- TX.DATA emits nothing, or the byte it has sent (R115). -/
theorem txData_events (s : State) :
    (txData s).events = s.events ∨ ∃ b, (txData s).events = s.events ++ [.txByte b] := by
  by_cases hbit : cursorNext s.txBit = cursorDone
  · rw [txData_eq_of_done hbit]; exact .inr ⟨_, rfl⟩
  · rw [txData_eq_of_more hbit]; exact .inl rfl

/-- What the transmitter's turn can emit: only TX.DATA emits (R110 to R117). -/
theorem txDispatch_events (s : State) :
    (txDispatch s).events = s.events ∨ ∃ b, (txDispatch s).events = s.events ++ [.txByte b] := by
  by_cases hw : s.txWait.toNat ≤ 1
  · rw [txDispatch_of_acts hw]
    cases s.txPhase with
    | idle => rw [txAct, txIdle]; split <;> exact .inl rfl
    | data => exact txData_events { s with txPhase := .data, txWait := 0 }
    | start | parity | stop => exact .inl rfl
  · rw [txDispatch_of_waits (by omega)]
    exact .inl rfl

/-! The matcher's events. -/

/-- What the matcher can emit behind an open gate, in the order of the scan and the clear (R131, R133, R134). -/
def MatcherEvents (m : List Event) : Prop :=
  m = [] ∨ (∃ i, m = [.matched i, .clear .matched]) ∨ (∃ i, m = [.matched i, .txOverflow i, .clear .matched]) ∨
    m = [.clear .noMatch] ∨ m = [.timeout, .clear .timeout]

/-- The scan passes every entry and does nothing, or reports and answers one (R131). -/
theorem scanFrom_cases (es : List QueryTableEntry) (i : Nat) (c : Bool) (s : State) :
    (∃ d, scanFrom i c s es = { state := s, matched := false, couldMatch := d }) ∨
      ∃ j q d, scanFrom i c s es =
        { state := cmReply j q (State.emit (.matched j) s), matched := true, couldMatch := d } := by
  induction es generalizing i c with
  | nil => exact .inl ⟨c, rfl⟩
  | cons e es ih =>
    cases he : queryMatches s.rxb.content e with
    | true => rw [scanFrom_cons_of_match he]; exact .inr ⟨i, e.reply, c, rfl⟩
    | false => rw [scanFrom_cons_of_no_match he]; exact ih _ _

theorem clearFor_events (r : ClearReason) (s : State) : (clearFor r s).events = s.events ++ clearEvents r := by
  rw [clearFor_eq]

/-- A reply emits nothing, or that it is dropped (R133, R176). -/
theorem cmReply_events (i : Nat) (q : ByteSeq) (s : State) :
    (cmReply i q s).events = s.events ∨ (cmReply i q s).events = s.events ++ [.txOverflow i] := by
  rcases Nat.lt_or_ge (15 - s.txb.content.length) q.length with hnofit | hfit
  · rw [cmReply_of_not_fit hnofit]; exact .inr rfl
  · rw [cmReply_of_fit hfit]; exact .inl rfl

/-- The clear behind the reply to entry `i` ends one of the two sequences of a match (R133, R134). -/
theorem matchClear_events (i : Nat) (q : ByteSeq) (s : State) :
    ∃ m, (clearFor .matched (cmReply i q (State.emit (.matched i) s))).events = s.events ++ m ∧ MatcherEvents m := by
  rw [clearFor_events]
  rcases cmReply_events i q (State.emit (.matched i) s) with hreply | hreply
  · exact ⟨[.matched i, .clear .matched], by simp [hreply, clearEvents], .inr (.inl ⟨i, rfl⟩)⟩
  · exact ⟨[.matched i, .txOverflow i, .clear .matched], by simp [hreply, clearEvents], .inr (.inr (.inl ⟨i, rfl⟩))⟩

/-- The clear of a command that no entry matches (R134). -/
theorem cmClear_unmatched_events (c : Bool) (s : State) :
    ∃ m, (cmClear false c s).events = s.events ++ m ∧ MatcherEvents m := by
  cases c with
  | false => exact ⟨_, clearFor_events .noMatch s, .inr (.inr (.inr (.inl rfl)))⟩
  | true =>
    by_cases hexp : s.rxTimeout = 0
    · rw [cmClear_of_expired hexp]
      exact ⟨_, clearFor_events .timeout s, .inr (.inr (.inr (.inr rfl)))⟩
    · rw [cmClear_of_running hexp]
      exact ⟨[], (List.append_nil _).symm, .inl rfl⟩

/-- The gate adds one of the matcher's sequences, and the empty one unless the receiver is IDLE (R130). -/
theorem cmGate_events (s : State) :
    ∃ m, (cmGate s).events = s.events ++ m ∧ MatcherEvents m ∧ (m ≠ [] → s.rxPhase = .idle) := by
  by_cases hopen : s.rxPhase = .idle ∧ s.rxb.rd ≠ s.rxb.wr
  · obtain ⟨hp, hne⟩ := hopen
    suffices h : ∃ m, (cmGate s).events = s.events ++ m ∧ MatcherEvents m by
      obtain ⟨m, hadds, hm⟩ := h
      exact ⟨m, hadds, hm, fun _ => hp⟩
    rw [cmGate_of_open hp hne, cmScan]
    rcases scanFrom_cases s.table 0 false s with ⟨d, hscan⟩ | ⟨i, q, d, hscan⟩
    · rw [hscan]
      exact cmClear_unmatched_events d s
    · rw [hscan]
      exact matchClear_events i q s
  · rw [cmGate, if_neg hopen]
    exact ⟨[], (List.append_nil _).symm, .inl rfl, fun h => absurd rfl h⟩

/-- Settles O56: the three machines add their events one behind the other, and the gate is closed where the receiver's
event leaves a phase other than IDLE. -/
theorem eventsOfOneTick : Obligations.EventsOfOneTick := by
  unfold Obligations.EventsOfOneTick
  intro s t x htick
  rcases execTick_cases htick with ⟨-, rfl⟩ | ⟨-, rfl⟩
  · obtain ⟨w, hsent, hw⟩ : ∃ w, (transmitted x s).events = (received x s).events ++ w ∧
        (w = [] ∨ ∃ b, w = [.txByte b]) := by
      rcases txDispatch_events (latched x s) with hnone | ⟨b, hbyte⟩
      · exact ⟨[], by rw [List.append_nil]; exact hnone, .inl rfl⟩
      · exact ⟨[.txByte b], hbyte, .inr ⟨b, rfl⟩⟩
    obtain ⟨m, hgate, hm, hidle⟩ := cmGate_events (transmitted x s)
    obtain ⟨hphase, -⟩ := transmitted_receiver_eq x s
    refine ⟨(received x s).events, w, m, by rw [tick_eq_cmGate, hgate, hsent], ?_, hw, hm, fun hne => ?_⟩
    · rcases received_events x s with (h | h | h) | ⟨-, h | h | h⟩ <;> simp [h]
    · exact (received_events x s).resolve_right fun ⟨hbusy, _⟩ => hbusy (hphase ▸ hidle hne)
  · exact ⟨[], [], [], rfl, .inl rfl, .inl rfl, .inl rfl, fun _ => .inl rfl⟩

/-! Observation. -/

/-- An operation on a part of the state commutes with any change of what is no part of it: `put t s` is `s`'s part put
into `t`. -/
theorem commute_of_part {f g : State → State} (put : State → State → State) (hf : ∀ t s, f (put t s) = put t (f s))
    (hself : ∀ s, put s s = s) (hg : ∀ t s, put (g t) s = g (put t s)) : Function.Commute f g := by
  intro s
  calc f (g s) = f (put (g s) s) := by rw [hg, hself]
    _ = g (put s (f s)) := by rw [hf, hg]
    _ = g (f s) := by rw [← hf, hself]

/-- The state with another returned value. -/
def State.withRet (r : Ret) (s : State) : State := { s with ret := r }

/-- The returned value is in no machine's part of the state (R151). -/
theorem tickSubSteps_commute_withRet (x : Level) (r : Ret) : Function.Commute (tickSubSteps x) (State.withRet r) := by
  have hrx : Function.Commute rxDispatch (State.withRet r) :=
    commute_of_part (State.withReceiverOf · · []) (rxDispatch_onReceiver · · []) (fun _ => rfl) fun _ _ => rfl
  have htx : Function.Commute txDispatch (State.withRet r) :=
    commute_of_part (State.withTransmitterOf · · []) (txDispatch_onTransmitter · · []) (fun _ => rfl) fun _ _ => rfl
  have hcm : Function.Commute cmGate (State.withRet r) :=
    commute_of_part (State.withMatcherOf · · []) (cmGate_onMatcher · · []) (fun _ => rfl) fun _ _ => rfl
  have hbegin : Function.Commute (fun s => toTick (txDrive (beginTick x s))) (State.withRet r) := fun _ => rfl
  have hlatch : Function.Commute (rxLatch x) (State.withRet r) := fun _ => rfl
  exact hcm.comp_left (htx.comp_left (hlatch.comp_left (hrx.comp_left hbegin)))

/-- A new tick begins with no events, whatever was there (R150). -/
theorem tickSubSteps_observed (x : Level) (evs : List Event) (r : Ret) (s : State) :
    tickSubSteps x { s with events := evs, ret := r } = (tickSubSteps x s).withRet r :=
  tickSubSteps_commute_withRet x r s

/-- Settles O57: the events are emptied when the tick begins, and no machine reads or writes the returned value. -/
theorem observationHasNoEffect : Obligations.ObservationHasNoEffect := by
  unfold Obligations.ObservationHasNoEffect
  intro s t x evs r htick
  rw [exec_tick]
  rcases execTick_cases htick with ⟨ha, rfl⟩ | ⟨ha, rfl⟩
  · rw [execTick_active (s := { s with events := evs, ret := r }) ha, tickSubSteps_observed]; rfl
  · exact execTick_inactive (s := { s with events := evs, ret := r }) ha x

end Sys2Proof.Machine
end

section
/-! PROOFS. RESET and the first ticks after it (spec/70_reset_and_hazards.md R190). The reset state is quiescent but for
the sample it remembers, and a quiescent state reads that sample only to look for a falling edge. -/

namespace Sys2Proof.Machine

open Sys2Proof

/-- RESET leads to the state after reset, with the storage, the ports, the table and the queue of the state it met
(R190). -/
theorem resetCore_eq (s : State) :
    resetCore s = { State.reset with
      rxb := { s.rxb with wr := 0, rd := 0 }, txb := { s.txb with wr := 0, rd := 0 }
      rxIn := s.rxIn, enable := s.enable, active := s.enable, table := s.table, inputs := s.inputs } := rfl

/-- Settles O17: the registers are those of the state after reset, everything else is as it was. -/
theorem resetRestoresTheResetValues : Obligations.ResetRestoresTheResetValues := by
  unfold Obligations.ResetRestoresTheResetValues
  intro s
  rw [exec_reset, execReset, resetCore_eq]
  exact ⟨_, rfl,
    rfl, rfl, rfl, rfl, rfl, rfl,
    rfl, rfl, rfl, rfl, rfl, rfl,
    rfl, rfl, rfl, rfl,
    rfl, rfl, rfl, rfl,
    rfl, rfl, rfl,
    rfl, rfl⟩

/-- In a quiescent state a high sample is no falling edge whatever the last one was, so the tick is the one of the state
that remembers a high sample already (R91, R93). -/
theorem tick_high_rxLatch_of_quiescent {s : State} (h : quiescent s = true) (hpin : s.txPin = s.txLevel) :
    tickSubSteps high s = tickSubSteps high (rxLatch high s) := by
  have hlatched : rxLatch high (received high s) = rxLatch high (received high (rxLatch high s)) := by
    rw [received_of_quiescent h hpin, received_of_quiescent (s := rxLatch high s) h hpin]
    rfl
  rw [tickSubSteps_eq, hlatched, ← tickSubSteps_eq]

/-- A tick with the line high in a quiescent state changes, of the registers, only the sample it remembers (R154). -/
theorem exec_tick_high_of_quiescent {s : State} (ha : s.active = true) (hq : quiescent s = true) (hrd : s.txb.rd = 0)
    (hpin : s.txPin = s.txLevel) :
    exec (.tick high) s = .next { s with rxLast := high, rxIn := high, events := [] } := by
  calc exec (.tick high) s
      = .next (tickSubSteps high s) := by rw [exec_tick, execTick_active ha]
    _ = .next (tickSubSteps high (rxLatch high s)) := by rw [tick_high_rxLatch_of_quiescent hq hpin]
    _ = exec (.tick high) (rxLatch high s) := by rw [exec_tick, execTick_active (s := rxLatch high s) ha]
    _ = .next { s with rxLast := high, rxIn := high, events := [] } :=
      quiescentStateStands (rxLatch high s) ha hq rfl hrd hpin

theorem reset_quiescent : quiescent State.reset = true := by decide

/-- Settles O18: the reset state is quiescent, and so is the state that remembers the high sample. -/
theorem firstHighTickAfterResetChangesOnlyRxLast : Obligations.FirstHighTickAfterResetChangesOnlyRxLast := by
  unfold Obligations.FirstHighTickAfterResetChangesOnlyRxLast
  exact ⟨exec_tick_high_of_quiescent rfl reset_quiescent rfl rfl,
    quiescentStateStands { State.reset with rxLast := high } rfl reset_quiescent rfl rfl rfl⟩

end Sys2Proof.Machine
end
